-- ==== Sys2Proof/Word.lean ====
section
/-!
DEFINITION. The word and register types of the machine, by the names the spec uses (00_scope.md R6).
-/

namespace Sys2Proof

/-- A 60-bit CPU word: an X register, an SCM word, an LCM word (R6). -/
abbrev Word60 := BitVec 60
/-- An 18-bit A, B, P, RAS, FLS, PSD or BPA value, and a PPU's A (R6). -/
abbrev Word18 := BitVec 18
/-- A 12-bit PPU word, PPU address or channel word (R6). -/
abbrev Word12 := BitVec 12
/-- A 15-bit instruction parcel (R6). -/
abbrev Parcel := BitVec 15
/-- A 16-bit absolute SCM address (R6). -/
abbrev ScmAddr := BitVec 16
/-- A 19-bit absolute LCM address (R6). -/
abbrev LcmAddr := BitVec 19
/-- A 3-bit register designator i, j or k (R122). -/
abbrev Reg := Fin 8
/-- A MUX channel number 0 to 0o17, or a PPU's place (0 is the MCU). -/
abbrev Unit16 := Fin 16
/-- A cable of a PPU, 0 to 7 (R380). -/
abbrev Cable := Fin 8

end Sys2Proof
end

