-- ==== Sys2Proof/Machine/Arith.lean ====
section
/-!
DEFINITION. Ones complement arithmetic (00_scope.md R17), shifts (42_cpu_boolean_shift_normalize.md section 4) and
small bit operations.
-/

namespace Sys2Proof.Machine

/-- `oc_sub_N` (R17): subtract over the unsigned integers, with end-around borrow. -/
def ocSub {w : Nat} (a b : BitVec w) : BitVec w :=
  if b.toNat ≤ a.toNat then BitVec.ofNat w (a.toNat - b.toNat)
  else BitVec.ofNat w (a.toNat + (2 ^ w - 1) - b.toNat)

/-- `oc_add_N` (R17): subtract the complement (D2). -/
def ocAdd {w : Nat} (a b : BitVec w) : BitVec w := ocSub a (~~~b)

/-- `val_N` (R17): the signed integer value; both zeros have value 0. -/
def ocVal {w : Nat} (v : BitVec w) : Int := if v.msb then -((~~~v).toNat : Int) else (v.toNat : Int)

/-- `rotl_60` and `rotl_18` (R200, R318): left circular by `n` places, taken modulo the width. -/
def rotl {w : Nat} (v : BitVec w) (n : Nat) : BitVec w := v.rotateLeft (n % w)

/-- `asr_60` (42, section 4): right end-off with sign extension; a count of 60 or more leaves sign bits. -/
def asr60 (v : Word60) (n : Nat) : Word60 := v.sshiftRight n

/-- The number of one bits (44 R263). -/
def popCount (v : Word60) : Nat := ((List.range 60).filter (fun n => v.getLsbD n)).length

/-- `n` ones at the high end (R204). -/
def highMask (n : Nat) : Word60 := ~~~(BitVec.allOnes 60 >>> n)

/-- The ordered comparison of 06 and 07 in 19-bit ones complement (41_cpu_branch.md R185). -/
def ocGe (a b : Word18) : Bool := !(ocSub (a.signExtend 19) (b.signExtend 19)).msb

/-- The first 12 bits of a number given as a 60-bit free value. -/
def low {w : Nat} (v : Word60) : BitVec w := v.setWidth w

end Sys2Proof.Machine
end

