-- ==== Sys2Proof/Config.lean ====
section
/-!
DEFINITION. What an installation fixes, as plain data (00_scope.md R7 to R14 and the parameter table of its
section 4), and the free values of the spec: every `draw` of the spec is `Config.draw`, which has no body.
-/

namespace Sys2Proof

/-- `PPU_P_WRAP` (45_ppu_instructions.md R303). -/
inductive PWrap | stuck | modulo | onesComplement
deriving DecidableEq, Repr

/-- `RMUL_UNNORM_ROUND` (43_cpu_floating.md R241). -/
inductive RoundChoice | either | quarter | half
deriving DecidableEq, Repr

/-- `RTC_IN_MONITOR` (60_exceptions.md R445). -/
inductive RtcChoice | either | masked | taken
deriving DecidableEq, Repr

/-- The transmitting end of a cable (10_state.md R60). -/
inductive TxEnd
  /-- output cable `n` of PPU `u` -/
  | ppu (u : Unit16) (n : Cable)
  /-- the output side of MUX channel `c` -/
  | mux (c : Unit16)
deriving DecidableEq, Repr

/-- The receiving end of a cable (10_state.md R60). -/
inductive RxEnd
  /-- input cable `n` of PPU `u` -/
  | ppu (u : Unit16) (n : Cable)
  /-- the input side of MUX channel `c` -/
  | mux (c : Unit16)
deriving DecidableEq, Repr

/-- A channel buffer: its first absolute SCM address and its length in words (R11, R102). -/
structure Buffer where
  first : Nat
  length : Nat
deriving DecidableEq, Repr

/-- The place of one field of an exchange package: which of the 16 words, and its lowest bit. -/
structure Slot where
  word : Nat
  lsb : Nat
deriving DecidableEq, Repr

/-- `XPKG_LAYOUT` (R14): the place of each field of 10_state.md R41. `b` has a place for B1 to B7 (index 0 is B1). -/
structure PkgLayout where
  p : Slot
  ras : Slot
  fls : Slot
  ral : Slot
  fll : Slot
  psd : Slot
  nea : Slot
  eea : Slot
  bpa : Slot
  a : Vector Slot 8
  b : Vector Slot 7
  x : Vector Nat 8
deriving DecidableEq, Repr

/-- The parameters of the installation (00_scope.md section 4 and its table). -/
structure Config where
  /-- `SCM_WORDS` (R7) -/
  scmWords : Nat
  /-- `LCM_WORDS` (R8) -/
  lcmWords : Nat
  /-- `MUX_CHANNELS` (R9), by channel number; channel 0 never counts -/
  muxPresent : Vector Bool 16
  /-- `HIGH_SPEED_CHANNELS` (R10) -/
  highSpeed : Vector Bool 16
  /-- `BUFFER_MAP` of the input sides (R11, R104) -/
  inBuf : Vector Buffer 16
  /-- `BUFFER_MAP` of the output sides (R11, R104) -/
  outBuf : Vector Buffer 16
  /-- `NOTE8_FCO` (R12) -/
  note8Fco : Bool
  /-- `PPU_COUNT` (R13): places 0 to `ppuCount - 1` are installed, place 0 is the MCU; the model has 16 places (DESIGN
  CHOICE, assumption 33), so a count above 16 adds nothing -/
  ppuCount : Nat
  /-- `PPU_TOPOLOGY` (R13): the point-to-point links; the spec gives no default table (assumption 25) -/
  links : List (TxEnd × RxEnd)
  /-- the PPUs whose channel 0 is on the MCU scanner (R452) -/
  onScanner : Vector Bool 16
  /-- `XPKG_LAYOUT` (R14) -/
  layout : PkgLayout
  /-- `STATUS_ABSOLUTE` (R46) -/
  statusAbsolute : Bool
  /-- `PPU_P_WRAP` (R303) -/
  pWrap : PWrap
  /-- `FADD_FAR_COPY` (R225) -/
  faddFarCopy : Bool
  /-- `RMUL_UNNORM_ROUND` (R241) -/
  rmulRound : RoundChoice
  /-- `RTC_IN_MONITOR` (R445) -/
  rtcMonitor : RtcChoice
  /-- `ERROR_EXIT_SLIP` (R417): a bound, or none for unbounded -/
  errorExitSlip : Option Nat
deriving DecidableEq, Repr

/-- The points at which the spec leaves a value open (93_implementation_defined.md section 3). One step never asks
for the same point twice, so that each use may differ. -/
inductive DrawSite
  /-- SCM word that does not exist or has bad parity, read for purpose `who` at address `a` (R80, R82) -/
  | scmWord (who a : Nat)
  /-- LCM word that does not exist or has bad parity (R88, R89) -/
  | lcmWord (a : Nat)
  /-- bits of package word `w` that belong to no field (R41) -/
  | pkgSpare (w : Nat)
  /-- word `w` of the package stored by the CPU dead start's exchange jump (R61, R473) -/
  | bootWord (w : Nat)
  /-- which word of the package the next reference of an exchange sequence concerns (R412) -/
  | exchangeOrder
  /-- the slip of an error exit for PSD flag `n` (R417) -/
  | slip (n : Nat)
  /-- whether the real-time request is taken at this word end (R414) -/
  | takeRtc
  /-- whether Monitor Mode masks it at this word end, for RTC_IN_MONITOR = either (R445) -/
  | rtcMasked
  /-- whether the I/O request is taken at this word end (R414) -/
  | takeIo
  /-- whether the real-time or the I/O request is considered first (R414, D8) -/
  | rtcFirst
  /-- whether the k-th most recent store is aborted (R489) -/
  | abortStore (k : Nat)
  /-- late breakpoint (R431) -/
  | lateBreakpoint
  /-- which of the stale contents a fetch delivers (R97) -/
  | staleFetch
  /-- channel status read directly after a reset (R491) -/
  | statusAfterReset
  /-- the round bit of 41 for operands not both normalized (R241) -/
  | roundBit
  /-- the noise word of 71 (R391) -/
  | noise
  /-- unassigned bits of MCU status channels (R454) -/
  | mcuStatus
  /-- whether a parity error, of LCM or of SCM, overwrites an earlier one in the latches (R57); `n` errors of that storage
  still wait, which tells apart the errors that one step detects -/
  | latchOverwrite (lcm : Bool) (n : Nat)
  /-- whether a parity error during an exchange sequence is charged before or after the load (R412 i) -/
  | parityCharge
  /-- MUX registers after Clear I/O (R472) -/
  | clearIo (c item : Nat)
  /-- cable contents when SCANSEL changes during a transfer (R452, D35) -/
  | garbled (item : Nat)
  /-- the memory word that a dead start of PPU `u` leaves in the middle of its store (R474) -/
  | cutShort (u : Nat)
deriving DecidableEq, Repr

/-- THE FREE VALUE at step counter `t` and point `p`. It has no body: nothing can be proved of its value
(`draw(N)` of 00_scope.md R18 is its low N bits). -/
opaque Config.draw (t : Nat) (p : DrawSite) : BitVec 60

/-- The free natural number of an unbounded slip (R417). -/
opaque Config.drawNat (t : Nat) (p : DrawSite) : Nat

/-- A free choice between two behaviours. -/
def Config.drawBool (t : Nat) (p : DrawSite) : Bool := (Config.draw t p).getLsbD 0

/-- The default `XPKG_LAYOUT` of 92_eei_decisions.md D1 (UNVERIFIED there: general knowledge, not the manual). -/
def Config.defaultLayout : PkgLayout where
  p := ⟨0, 36⟩
  ras := ⟨1, 36⟩
  fls := ⟨2, 36⟩
  psd := ⟨3, 36⟩
  ral := ⟨4, 36⟩
  fll := ⟨5, 36⟩
  nea := ⟨6, 36⟩
  eea := ⟨7, 36⟩
  bpa := ⟨0, 0⟩
  a := #v[⟨0, 18⟩, ⟨1, 18⟩, ⟨2, 18⟩, ⟨3, 18⟩, ⟨4, 18⟩, ⟨5, 18⟩, ⟨6, 18⟩, ⟨7, 18⟩]
  b := #v[⟨1, 0⟩, ⟨2, 0⟩, ⟨3, 0⟩, ⟨4, 0⟩, ⟨5, 0⟩, ⟨6, 0⟩, ⟨7, 0⟩]
  x := #v[8, 9, 10, 11, 12, 13, 14, 15]

/-- The default configuration (R7 to R14 and the parameter table: the default stands first there; BUFFER_MAP is
20_memory.md R104). For `PPU_TOPOLOGY` the spec names none ("links open"): that the table of links is empty, so that no cable
of a PPU or of the multiplexer joins another but through the scanner, and that the scanner reaches PPUs 1 to 15 octal, is a
DESIGN CHOICE, assumption 25. -/
def Config.default : Config where
  scmWords := 65536
  lcmWords := 524288
  muxPresent := #v[false, true, true, true, true, true, true, true, true, true, true, true, true, true, true, true]
  highSpeed := #v[false, false, true, true, true, true, true, true, false, false, false, false, false, false, false, false]
  inBuf := #v[⟨0, 0⟩, ⟨0o2000, 128⟩, ⟨0o2400, 256⟩, ⟨0o2400, 256⟩, ⟨0o3000, 256⟩, ⟨0o3000, 256⟩, ⟨0o3400, 256⟩, ⟨0o3400, 256⟩,
    ⟨0o4000, 128⟩, ⟨0o4400, 128⟩, ⟨0o5000, 128⟩, ⟨0o5400, 128⟩, ⟨0o6000, 128⟩, ⟨0o6400, 128⟩, ⟨0o7000, 128⟩, ⟨0o7400, 128⟩]
  outBuf := #v[⟨0, 0⟩, ⟨0o2200, 128⟩, ⟨0o2400, 256⟩, ⟨0o2400, 256⟩, ⟨0o3000, 256⟩, ⟨0o3000, 256⟩, ⟨0o3400, 256⟩, ⟨0o3400, 256⟩,
    ⟨0o4200, 128⟩, ⟨0o4600, 128⟩, ⟨0o5200, 128⟩, ⟨0o5600, 128⟩, ⟨0o6200, 128⟩, ⟨0o6600, 128⟩, ⟨0o7200, 128⟩, ⟨0o7600, 128⟩]
  note8Fco := false
  ppuCount := 7
  links := []
  onScanner := #v[false, true, true, true, true, true, true, true, true, true, true, true, true, true, false, false]
  layout := Config.defaultLayout
  statusAbsolute := false
  pWrap := .stuck
  faddFarCopy := false
  rmulRound := .either
  rtcMonitor := .either
  errorExitSlip := some 10

end Sys2Proof
end

