-- ==== Sys2Proof/Syntax.lean ====
section
/-!
DEFINITION. The two instruction sets as one inductive type: one constructor for each of the 145 rows of the opcode
table (30_encoding.md R126 and R141), named by its COMPASS mnemonic and its octal code. Designators that an
instruction does not use (R128) are not kept. `K` is the 18-bit constant, `jk` the 6-bit count (R122, R123);
`d` and `m` are the PPU fields (R140).
-/

namespace Sys2Proof

/-- An instruction of the CPU (`es00` to `sx77`) or of a PPU (`esn00` to `esn77`). -/
inductive Instr
  /-- ES_00---: Error exit to EEA -/
  | es00
  /-- RJ_010-K: Return jump to K -/
  | rj010 (K : Word18)
  /-- RL_011jK: Block copy (Bj)+K words from LCM to SCM -/
  | rl011 (j : Reg) (K : Word18)
  /-- WL_012jK: Block copy (Bj)+K words from SCM to LCM -/
  | wl012 (j : Reg) (K : Word18)
  /-- MJ_013--: Exchange exit to NEA -/
  | mj013Nea
  /-- MJ_013jK: Exchange exit to (Bj)+K -/
  | mj013Bk (j : Reg) (K : Word18)
  /-- RX_014jk: Read LCM at (Xk) to Xj -/
  | rx014 (j : Reg) (k : Reg)
  /-- WX_015jk: Write (Xj) into LCM at (Xk) -/
  | wx015 (j : Reg) (k : Reg)
  /-- RI_0160k: Reset input channel (Bk) buffer -/
  | ri0160 (k : Reg)
  /-- IB_016jk: Read input channel (Bk) status to Bj (TB: read clock when (Bk) = 0) -/
  | ib016 (j : Reg) (k : Reg)
  /-- RO_0170k: Reset output channel (Bk) buffer -/
  | ro0170 (k : Reg)
  /-- OB_017jk: Read output channel (Bk) status to Bj -/
  | ob017 (j : Reg) (k : Reg)
  /-- JP_02i-K: Jump to (Bi)+K -/
  | jp02 (i : Reg) (K : Word18)
  /-- ZR_030jK: Branch to K if (Xj) = 0 -/
  | zr030 (j : Reg) (K : Word18)
  /-- NZ_031jK: Branch to K if (Xj) not 0 -/
  | nz031 (j : Reg) (K : Word18)
  /-- PL_032jK: Branch to K if (Xj) positive -/
  | pl032 (j : Reg) (K : Word18)
  /-- NG_033jK: Branch to K if (Xj) negative -/
  | ng033 (j : Reg) (K : Word18)
  /-- IR_034jK: Branch to K if (Xj) in range -/
  | ir034 (j : Reg) (K : Word18)
  /-- OR_035jK: Branch to K if (Xj) out of range -/
  | or035 (j : Reg) (K : Word18)
  /-- DF_036jK: Branch to K if (Xj) definite -/
  | df036 (j : Reg) (K : Word18)
  /-- ID_037jK: Branch to K if (Xj) indefinite -/
  | id037 (j : Reg) (K : Word18)
  /-- EQ_04ijK: Branch to K if (Bi) = (Bj) -/
  | eq04 (i : Reg) (j : Reg) (K : Word18)
  /-- NE_05ijK: Branch to K if (Bi) not = (Bj) -/
  | ne05 (i : Reg) (j : Reg) (K : Word18)
  /-- GE_06ijK: Branch to K if (Bi) >= (Bj) -/
  | ge06 (i : Reg) (j : Reg) (K : Word18)
  /-- LT_07ijK: Branch to K if (Bi) < (Bj) -/
  | lt07 (i : Reg) (j : Reg) (K : Word18)
  /-- BX_10ij-: Transmit (Xj) to Xi -/
  | bx10 (i : Reg) (j : Reg)
  /-- BX_11ijk: Logical product of (Xj) and (Xk) to Xi -/
  | bx11 (i : Reg) (j : Reg) (k : Reg)
  /-- BX_12ijk: Logical sum of (Xj) and (Xk) to Xi -/
  | bx12 (i : Reg) (j : Reg) (k : Reg)
  /-- BX_13ijk: Logical difference of (Xj) and (Xk) to Xi -/
  | bx13 (i : Reg) (j : Reg) (k : Reg)
  /-- BX_14i-k: Transmit complement of (Xk) to Xi -/
  | bx14 (i : Reg) (k : Reg)
  /-- BX_15ijk: Logical product of (Xj) and complement of (Xk) to Xi -/
  | bx15 (i : Reg) (j : Reg) (k : Reg)
  /-- BX_16ijk: Logical sum of (Xj) and complement of (Xk) to Xi -/
  | bx16 (i : Reg) (j : Reg) (k : Reg)
  /-- BX_17ijk: Logical difference of (Xj) and complement of (Xk) to Xi -/
  | bx17 (i : Reg) (j : Reg) (k : Reg)
  /-- LX_20ijk: Left shift (Xi) by jk -/
  | lx20 (i : Reg) (jk : BitVec 6)
  /-- AX_21ijk: Right shift (Xi) by jk -/
  | ax21 (i : Reg) (jk : BitVec 6)
  /-- LX_22ijk: Left shift (Xk) nominally (Bj) places to Xi -/
  | lx22 (i : Reg) (j : Reg) (k : Reg)
  /-- AX_23ijk: Right shift (Xk) nominally (Bj) places to Xi -/
  | ax23 (i : Reg) (j : Reg) (k : Reg)
  /-- NX_24ijk: Normalize (Xk) to Xi and Bj -/
  | nx24 (i : Reg) (j : Reg) (k : Reg)
  /-- ZX_25ijk: Round and normalize (Xk) to Xi and Bj -/
  | zx25 (i : Reg) (j : Reg) (k : Reg)
  /-- UX_26ijk: Unpack (Xk) to Xi and Bj -/
  | ux26 (i : Reg) (j : Reg) (k : Reg)
  /-- PX_27ijk: Pack (Xk) and (Bj) to Xi -/
  | px27 (i : Reg) (j : Reg) (k : Reg)
  /-- FX_30ijk: Floating sum of (Xj) and (Xk) to Xi -/
  | fx30 (i : Reg) (j : Reg) (k : Reg)
  /-- FX_31ijk: Floating difference of (Xj) minus (Xk) to Xi -/
  | fx31 (i : Reg) (j : Reg) (k : Reg)
  /-- DX_32ijk: Floating DP sum of (Xj) and (Xk) to Xi -/
  | dx32 (i : Reg) (j : Reg) (k : Reg)
  /-- DX_33ijk: Floating DP difference of (Xj) minus (Xk) to Xi -/
  | dx33 (i : Reg) (j : Reg) (k : Reg)
  /-- RX_34ijk: Round floating sum of (Xj) and (Xk) to Xi -/
  | rx34 (i : Reg) (j : Reg) (k : Reg)
  /-- RX_35ijk: Round floating difference of (Xj) minus (Xk) to Xi -/
  | rx35 (i : Reg) (j : Reg) (k : Reg)
  /-- IX_36ijk: Integer sum of (Xj) and (Xk) to Xi -/
  | ix36 (i : Reg) (j : Reg) (k : Reg)
  /-- IX_37ijk: Integer difference of (Xj) minus (Xk) to Xi -/
  | ix37 (i : Reg) (j : Reg) (k : Reg)
  /-- FX_40ijk: Floating product of (Xj) and (Xk) to Xi -/
  | fx40 (i : Reg) (j : Reg) (k : Reg)
  /-- RX_41ijk: Round floating product of (Xj) and (Xk) to Xi -/
  | rx41 (i : Reg) (j : Reg) (k : Reg)
  /-- DX_42ijk: Floating DP product of (Xj) and (Xk) to Xi -/
  | dx42 (i : Reg) (j : Reg) (k : Reg)
  /-- MX_43ijk: Form mask of jk bits to Xi -/
  | mx43 (i : Reg) (jk : BitVec 6)
  /-- FX_44ijk: Floating divide (Xj) by (Xk) to Xi -/
  | fx44 (i : Reg) (j : Reg) (k : Reg)
  /-- RX_45ijk: Round floating divide (Xj) by (Xk) to Xi -/
  | rx45 (i : Reg) (j : Reg) (k : Reg)
  /-- NO_46---: No operation (Pass) -/
  | no46
  /-- CX_47i-k: Population count of (Xk) to Xi -/
  | cx47 (i : Reg) (k : Reg)
  /-- SA_50ijK: Set Ai to (Aj)+K -/
  | sa50 (i : Reg) (j : Reg) (K : Word18)
  /-- SA_51ijK: Set Ai to (Bj)+K -/
  | sa51 (i : Reg) (j : Reg) (K : Word18)
  /-- SA_52ijK: Set Ai to (Xj)+K -/
  | sa52 (i : Reg) (j : Reg) (K : Word18)
  /-- SA_53ijk: Set Ai to (Xj)+(Bk) -/
  | sa53 (i : Reg) (j : Reg) (k : Reg)
  /-- SA_54ijk: Set Ai to (Aj)+(Bk) -/
  | sa54 (i : Reg) (j : Reg) (k : Reg)
  /-- SA_55ijk: Set Ai to (Aj)-(Bk) -/
  | sa55 (i : Reg) (j : Reg) (k : Reg)
  /-- SA_56ijk: Set Ai to (Bj)+(Bk) -/
  | sa56 (i : Reg) (j : Reg) (k : Reg)
  /-- SA_57ijk: Set Ai to (Bj)-(Bk) -/
  | sa57 (i : Reg) (j : Reg) (k : Reg)
  /-- SB_60ijK: Set Bi to (Aj)+K -/
  | sb60 (i : Reg) (j : Reg) (K : Word18)
  /-- SB_61ijK: Set Bi to (Bj)+K -/
  | sb61 (i : Reg) (j : Reg) (K : Word18)
  /-- SB_62ijK: Set Bi to (Xj)+K -/
  | sb62 (i : Reg) (j : Reg) (K : Word18)
  /-- SB_63ijk: Set Bi to (Xj)+(Bk) -/
  | sb63 (i : Reg) (j : Reg) (k : Reg)
  /-- SB_64ijk: Set Bi to (Aj)+(Bk) -/
  | sb64 (i : Reg) (j : Reg) (k : Reg)
  /-- SB_65ijk: Set Bi to (Aj)-(Bk) -/
  | sb65 (i : Reg) (j : Reg) (k : Reg)
  /-- SB_66ijk: Set Bi to (Bj)+(Bk) -/
  | sb66 (i : Reg) (j : Reg) (k : Reg)
  /-- SB_67ijk: Set Bi to (Bj)-(Bk) -/
  | sb67 (i : Reg) (j : Reg) (k : Reg)
  /-- SX_70ijK: Set Xi to (Aj)+K -/
  | sx70 (i : Reg) (j : Reg) (K : Word18)
  /-- SX_71ijK: Set Xi to (Bj)+K -/
  | sx71 (i : Reg) (j : Reg) (K : Word18)
  /-- SX_72ijK: Set Xi to (Xj)+K -/
  | sx72 (i : Reg) (j : Reg) (K : Word18)
  /-- SX_73ijk: Set Xi to (Xj)+(Bk) -/
  | sx73 (i : Reg) (j : Reg) (k : Reg)
  /-- SX_74ijk: Set Xi to (Aj)+(Bk) -/
  | sx74 (i : Reg) (j : Reg) (k : Reg)
  /-- SX_75ijk: Set Xi to (Aj)-(Bk) -/
  | sx75 (i : Reg) (j : Reg) (k : Reg)
  /-- SX_76ijk: Set Xi to (Bj)+(Bk) -/
  | sx76 (i : Reg) (j : Reg) (k : Reg)
  /-- SX_77ijk: Set Xi to (Bj)-(Bk) -/
  | sx77 (i : Reg) (j : Reg) (k : Reg)
  /-- ESN_00: Error stop -/
  | esn00
  /-- LJM_01: Long jump to m + (d) -/
  | ljm01 (d : BitVec 6) (m : Word12)
  /-- RJM_02: Return jump to m + (d) -/
  | rjm02 (d : BitVec 6) (m : Word12)
  /-- UJN_03: Unconditional jump d -/
  | ujn03 (d : BitVec 6)
  /-- ZJN_04: Zero jump d -/
  | zjn04 (d : BitVec 6)
  /-- NJN_05: Nonzero jump d -/
  | njn05 (d : BitVec 6)
  /-- PJN_06: Plus jump d -/
  | pjn06 (d : BitVec 6)
  /-- MJN_07: Minus jump d -/
  | mjn07 (d : BitVec 6)
  /-- SHN_10: Shift (A) by d -/
  | shn10 (d : BitVec 6)
  /-- LMN_11: Logical difference (A) and d -/
  | lmn11 (d : BitVec 6)
  /-- LPN_12: Logical product (A) and d -/
  | lpn12 (d : BitVec 6)
  /-- SCN_13: Selective clear (A) -/
  | scn13 (d : BitVec 6)
  /-- LDN_14: Load d -/
  | ldn14 (d : BitVec 6)
  /-- LCN_15: Load complement d -/
  | lcn15 (d : BitVec 6)
  /-- ADN_16: Add (A) + d -/
  | adn16 (d : BitVec 6)
  /-- SBN_17: Subtract (A) - d -/
  | sbn17 (d : BitVec 6)
  /-- LDC_20: Load dm -/
  | ldc20 (d : BitVec 6) (m : Word12)
  /-- ADC_21: Add (A) + dm -/
  | adc21 (d : BitVec 6) (m : Word12)
  /-- LPC_22: Logical product (A) and dm -/
  | lpc22 (d : BitVec 6) (m : Word12)
  /-- LMC_23: Logical difference (A) and dm -/
  | lmc23 (d : BitVec 6) (m : Word12)
  /-- PSN_24: Pass -/
  | psn24
  /-- PASS_25: Pass -/
  | pass25
  /-- PASS_26: Pass -/
  | pass26
  /-- PASS_27: Pass -/
  | pass27
  /-- LDD_30: Load (d) -/
  | ldd30 (d : BitVec 6)
  /-- ADD_31: Add (d) + (A) -/
  | add31 (d : BitVec 6)
  /-- SBD_32: Subtract (A) - (d) -/
  | sbd32 (d : BitVec 6)
  /-- LMD_33: Logical difference (A) and (d) -/
  | lmd33 (d : BitVec 6)
  /-- STD_34: Store (A) at d -/
  | std34 (d : BitVec 6)
  /-- RAD_35: Replace add (A) + (d) -/
  | rad35 (d : BitVec 6)
  /-- AOD_36: Replace add one (d) -/
  | aod36 (d : BitVec 6)
  /-- SOD_37: Replace subtract one (d) -/
  | sod37 (d : BitVec 6)
  /-- LDI_40: Load ((d)) -/
  | ldi40 (d : BitVec 6)
  /-- ADI_41: Add (A) + ((d)) -/
  | adi41 (d : BitVec 6)
  /-- SBI_42: Subtract (A) - ((d)) -/
  | sbi42 (d : BitVec 6)
  /-- LMI_43: Logical difference (A) and ((d)) -/
  | lmi43 (d : BitVec 6)
  /-- STI_44: Store (A) at (d) -/
  | sti44 (d : BitVec 6)
  /-- RAI_45: Replace add (A) + ((d)) -/
  | rai45 (d : BitVec 6)
  /-- AOI_46: Replace add one ((d)) -/
  | aoi46 (d : BitVec 6)
  /-- SOI_47: Replace subtract one ((d)) -/
  | soi47 (d : BitVec 6)
  /-- LDM_50: Load (m + (d)) -/
  | ldm50 (d : BitVec 6) (m : Word12)
  /-- ADM_51: Add (A) + (m + (d)) -/
  | adm51 (d : BitVec 6) (m : Word12)
  /-- SBM_52: Subtract (A) - (m + (d)) -/
  | sbm52 (d : BitVec 6) (m : Word12)
  /-- LMM_53: Logical difference (A) and (m + (d)) -/
  | lmm53 (d : BitVec 6) (m : Word12)
  /-- STM_54: Store (A) at m + (d) -/
  | stm54 (d : BitVec 6) (m : Word12)
  /-- RAM_55: Replace add (A) + (m + (d)) -/
  | ram55 (d : BitVec 6) (m : Word12)
  /-- AOM_56: Replace add one (m + (d)) -/
  | aom56 (d : BitVec 6) (m : Word12)
  /-- SOM_57: Replace subtract one (m + (d)) -/
  | som57 (d : BitVec 6) (m : Word12)
  /-- FIM_60: Jump to m; input word flag on channel d -/
  | fim60 (d : BitVec 6) (m : Word12)
  /-- EIM_61: Jump to m; no input word flag on channel d -/
  | eim61 (d : BitVec 6) (m : Word12)
  /-- IRM_62: Jump to m; input record flag on channel d -/
  | irm62 (d : BitVec 6) (m : Word12)
  /-- NIM_63: Jump to m; no input record flag on channel d -/
  | nim63 (d : BitVec 6) (m : Word12)
  /-- FOM_64: Jump to m; output word flag on channel d -/
  | fom64 (d : BitVec 6) (m : Word12)
  /-- EOM_65: Jump to m; no output word flag on channel d -/
  | eom65 (d : BitVec 6) (m : Word12)
  /-- ORM_66: Jump to m; output record flag on channel d -/
  | orm66 (d : BitVec 6) (m : Word12)
  /-- NOM_67: Jump to m; no output record flag on channel d -/
  | nom67 (d : BitVec 6) (m : Word12)
  /-- IAN_70: Input to A from channel d -/
  | ian70 (d : BitVec 6)
  /-- IAM_71: Input (A) words to m from channel d -/
  | iam71 (d : BitVec 6) (m : Word12)
  /-- OAN_72: Output from A on channel d -/
  | oan72 (d : BitVec 6)
  /-- OAM_73: Output (A) words from m on channel d -/
  | oam73 (d : BitVec 6) (m : Word12)
  /-- RFN_74: Send record flag on channel d -/
  | rfn74 (d : BitVec 6)
  /-- PASS_75: Pass -/
  | pass75
  /-- PASS_76: Pass -/
  | pass76
  /-- ESN_77: Error stop -/
  | esn77
deriving DecidableEq, Repr

end Sys2Proof
end

