-- ==== Sys2Proof/Machine/State.lean ====
section
/-!
DEFINITION. Everything the spec gives the machine as state (10_state.md), as plain data, and its value at reset (R61 to
R64). INVENTORY.md lists each field with its rule.
-/

namespace Sys2Proof.Machine

open Sys2Proof

/-- A word memory: addresses strictly rising, no entry zero; an address not listed reads zero (assumption 3). -/
abbrev Mem (w : Nat) := List (Nat × BitVec w)

/-- Who asks for an exchange jump (60_exceptions.md R410). -/
inductive Initiator
  /-- an exchange exit instruction, 013 -/
  | exitInstruction
  /-- an error exit: 00, an address test, or a condition flag -/
  | errorExit
  /-- an I/O interrupt -/
  | ioInterrupt
  /-- the real-time interrupt -/
  | realTime
  /-- the CPU dead start: the registers to be stored are unspecified (R473) -/
  | deadStart
deriving DecidableEq, Repr

/-- An exchange sequence in progress (R412): 32 references, each a step of its own (R498). -/
structure Exchange where
  /-- the absolute address of the package -/
  addr : ScmAddr
  /-- what the P field of the stored package gets (R415) -/
  storedP : Word18
  initiator : Initiator
  /-- the words read so far -/
  got : Vector (Option Word60) 16
  /-- which words have been written -/
  put : Vector Bool 16
deriving DecidableEq, Repr

/-- A block copy 011 or 012 in progress (R96, R151, R152): each word is a step of its own (R498). -/
structure CopyRun where
  /-- from LCM to SCM (011), or from SCM to LCM (012) -/
  toScm : Bool
  /-- relative address of the next LCM word -/
  lcm : BitVec 19
  /-- relative address of the next SCM word -/
  scm : Word18
  /-- words not moved yet -/
  left : Nat
deriving DecidableEq, Repr

/-- Where the CPU stands between two of its steps (R30, R96, R412, R418, R473). -/
inductive Phase
  /-- held by the CPU dead start; the exchange jump at 0 is next (R473) -/
  | deadStart
  /-- an exchange jump has begun a new execution interval (R418) -/
  | newInterval
  /-- the word at P is to be made current (R30) -/
  | fetch
  /-- inside the current word, at PARCEL -/
  | inWord
  /-- inside the block copy at PARCEL -/
  | copying (c : CopyRun)
  /-- inside an exchange sequence -/
  | exchanging (x : Exchange)
deriving DecidableEq, Repr

/-- What the instruction just executed said of the next one (R18). -/
inductive Flow
  /-- no `pc <-`: the next parcel, or the next word -/
  | seq
  /-- `pc <- target`: the word at `target` at the end of this word -/
  | jump (target : Word18)
  /-- an exchange jump has begun -/
  | exited
deriving DecidableEq, Repr

/-- An SCM reference by an instruction 50 to 57, kept for the write-abort hazard (R489). -/
inductive ScmRef
  /-- a reference that cannot be aborted any more -/
  | done
  /-- an in-range store at absolute `addr`; `old` is what it replaced -/
  | store (addr : ScmAddr) (old : Word60)
deriving DecidableEq, Repr

/-- Which channel reset the last instruction was (R491). -/
inductive ResetKind
  | input
  | output
deriving DecidableEq, Repr

/-- The CPU (10_state.md sections 2 and 3). -/
structure Cpu where
  x : Vector Word60 8
  a : Vector Word18 8
  b : Vector Word18 8
  p : Word18
  ras : Word18
  fls : Word18
  ral : BitVec 19
  fll : BitVec 19
  psd : Word18
  nea : ScmAddr
  eea : ScmAddr
  bpa : Word18
  ciw : Word60
  parcel : Fin 4
  /-- IAS and IWS, the oldest entry (rank one) first (R27) -/
  iws : List (Word18 × Word60)
  slip : Option Nat
  phase : Phase
  flow : Flow
  /-- newest first, at most two (R489) -/
  recent : List ScmRef
  /-- the instruction before this one was an effective 0160 or 0170 (R491) -/
  afterReset : Option ResetKind
  /-- the instruction just executed was one -/
  didReset : Option ResetKind
  /-- instructions executed in this word (R431) -/
  issued : Nat
  /-- 30-bit Increment instructions executed in this word (R431) -/
  inc30 : Nat
  /-- a branch instruction was executed in this word (R432) -/
  branched : Bool
  /-- this word was reached by sequencing from a word of two 30-bit Increment instructions (R431) -/
  seqInc : Bool
  /-- a parity error during this exchange sequence is charged to the program being loaded (R412 i) -/
  parityLate : Bool
deriving DecidableEq, Repr

/-- The input side of a MUX channel (R46, R107 to R111). -/
structure MuxIn where
  bufAddr : BitVec 8
  asmCnt : BitVec 3
  asm : Word60
  wordReq : Bool
  ireq : Bool
  lockout : Bool
  held : Bool
  /-- Word Pulses that have arrived and are not served yet: each is one sample (R108, R111) -/
  wordIn : Nat
  /-- Record Pulses that have arrived and are not served yet -/
  recIn : Nat
  /-- the word that waits for SCM was completed by a Record Pulse (R109) -/
  endRec : Bool
  /-- data lines, when no transmitter of the machine drives them (R397) -/
  lines : Word12
  /-- Resume Pulses in flight to the transmitter -/
  sentS : Nat
deriving DecidableEq, Repr

/-- The output side of a MUX channel (R46, R107, R110, R112). -/
structure MuxOut where
  bufAddr : BitVec 8
  disCnt : BitVec 3
  dis : Word60
  wordReq : Bool
  active : Bool
  ireq : Bool
  lockout : Bool
  held : Bool
  /-- Record Pulses owed, sent with the next Word Pulse -/
  owesRec : Nat
  /-- a Word Pulse is owed for the word on the lines -/
  owesWord : Bool
  /-- the 12 data lines -/
  lines : Word12
  sentW : Nat
  sentR : Nat
  /-- Resume Pulses received and not served yet -/
  resIn : Nat
  /-- high-speed ranks C, B, A: the words on their way, the one on the lines first (R112) -/
  ranks : List Word12
  /-- the first of `ranks` is on the lines and its Word Pulse has been sent -/
  shown : Bool
deriving DecidableEq, Repr

/-- A MUX channel. -/
structure MuxChan where
  inp : MuxIn
  out : MuxOut
deriving DecidableEq, Repr

/-- `IOP`, the input/output instruction in progress (R381). `boot` marks the dead start load and the dead dump, which
end at P = 1 (R475, R477). -/
inductive Iop
  | idle
  | inBlock (c : Cable) (first boot : Bool)
  | outBlock (c : Cable) (boot : Bool)
deriving DecidableEq, Repr

/-- A PPU, or the MCU (10_state.md section 8). -/
structure Ppu where
  a : Word18
  p : Word12
  q : Word12
  x : BitVec 13
  fd : Word12
  k : BitVec 3
  iop : Iop
  mem : Mem 12
  inw : Vector Bool 8
  inr : Vector Bool 8
  outw : Vector Bool 8
  outr : Vector Bool 8
  outData : Vector Word12 8
  /-- data lines of the input cables, when no transmitter of the machine drives them (R397) -/
  inLines : Vector Word12 8
  /-- Word Pulses in flight on the output cables -/
  sentW : Vector Nat 8
  /-- Record Pulses in flight on the output cables -/
  sentR : Vector Nat 8
  /-- Resume Pulses in flight on the input cables -/
  sentS : Vector Nat 8
  stopped : Bool
  parErr : BitVec 4
deriving DecidableEq, Repr

/-- The SCM parity error report (R57): the address and the five section bits. -/
structure ScmLatch where
  addr : ScmAddr
  sections : BitVec 5
deriving DecidableEq, Repr

/-- The LCM parity error report (R57): the address and the four section bits. -/
structure LcmLatch where
  addr : LcmAddr
  sections : BitVec 4
deriving DecidableEq, Repr

/-- A request for one reference to an SCM word (R84), the six kinds in the order of their priority. -/
inductive ScmRequest
  /-- 1: the CPU inside an exchange sequence -/
  | exchange
  /-- 2: the CPU's Increment unit, an instruction 50 to 57 -/
  | increment
  /-- 3: the CPU's Return Jump -/
  | returnJump
  /-- 4: the I/O Multiplexer, the Word Request of a channel, of its input side or its output side -/
  | mux (c : Unit16) (input : Bool)
  /-- 4 too: the MCU's access path in the I/O Multiplexer, the word that it writes (R114) -/
  | mcu (a : ScmAddr) (v : Word60)
  /-- 5: the CPU reads its next instructions -/
  | fetch
  /-- 6: the CPU inside a block copy -/
  | blockCopy
deriving DecidableEq, Repr

/-- Which agent takes the next step, and what it does (R20, R498). An event that is not enabled changes nothing. -/
inductive Event
  /-- the CPU -/
  | cpu
  /-- PPU `u` -/
  | ppu (u : Unit16)
  /-- the clock agent counts one (R43) -/
  | clock
  /-- input side `c` samples the 12-bit word that has arrived (R108) -/
  | muxSample (c : Unit16)
  /-- input side `c` serves a Record Pulse (R109) -/
  | muxRecord (c : Unit16)
  /-- SCM receives, all at once, the requests that are out and that it has not received yet (R84): every Word Request, the
  CPU's request if `cpu` says so, and the MCU's where `mcu` gives it a rank among the channels -/
  | scmReceive (cpu : Bool) (mcu : Option Nat)
  /-- SCM accepts the Word Request of input side `c` (R108) -/
  | muxStore (c : Unit16)
  /-- SCM delivers the word that output side `c` requested (R110) -/
  | muxFetch (c : Unit16)
  /-- a high-speed output side moves a word into its ranks (R112) -/
  | muxAhead (c : Unit16)
  /-- output side `c` sends the Word Pulse it owes (R110, R112) -/
  | muxSend (c : Unit16)
  /-- output side `c` serves a Resume Pulse (R110, R112) -/
  | muxResume (c : Unit16)
  /-- a Word Pulse of this transmitter arrives (R60) -/
  | deliverWord (t : TxEnd)
  /-- a Record Pulse of this transmitter arrives -/
  | deliverRecord (t : TxEnd)
  /-- a Resume Pulse of this receiver arrives -/
  | deliverResume (r : RxEnd)
  /-- the continuous Resume of a PPU in dead start reaches a MUX output side (R474) -/
  | levelResume (c : Unit16)
  /-- a device sets the data lines of an unlinked input cable (R397) -/
  | envLines (r : RxEnd) (v : Word12)
  /-- a device sends a Word Pulse -/
  | envWord (r : RxEnd)
  /-- a device sends a Record Pulse -/
  | envRecord (r : RxEnd)
  /-- a device answers with a Resume Pulse -/
  | envResume (t : TxEnd)
  /-- the MCU's access path asks for the write of an SCM word (R114) -/
  | mcuWriteScm (a : ScmAddr) (v : Word60)
  /-- SCM accepts the MCU's request -/
  | mcuStore
  /-- the card reader's dead start switch goes up or down (R470) -/
  | mcuSwitch (up : Bool)
  /-- the next reference to the SCM word at `a` finds bad parity in these sections (R433) -/
  | scmParity (a : ScmAddr) (sections : BitVec 5)
  /-- the next read of the LCM word at `a` finds bad parity in these sections (R433) -/
  | lcmParity (a : LcmAddr) (sections : BitVec 4)
  /-- PPU `u` detects parity errors in these modules (R455) -/
  | ppuParity (u : Unit16) (banks : BitVec 4)
deriving DecidableEq, Repr

/-- The machine. It has sixteen PPU places, place 0 the MCU: the codes that SCANSEL can name. The spec bounds PPU_COUNT
nowhere (R13, R20, R460), so this bound is the model's: DESIGN CHOICE, assumption 33. -/
structure State where
  /-- the installation's parameters; no step changes them -/
  cfg : Config
  cpu : Cpu
  scm : Mem 60
  lcm : Mem 60
  clk : BitVec 17
  rtcFlag : Bool
  mux : Vector MuxChan 16
  ppus : Vector Ppu 16
  /-- the PPU that a PPU meaning acts on -/
  cur : Unit16
  mcuSwitch : Bool
  scmLatch : ScmLatch
  lcmLatch : LcmLatch
  /-- the SCM references declared bad and not made yet: each entry spoils the next reference to its address (R433) -/
  scmBad : List (ScmAddr × BitVec 5)
  /-- the LCM reads declared bad and not made yet -/
  lcmBad : List (LcmAddr × BitVec 4)
  /-- the requests that SCM has received and not served, in the order in which it serves them (R84) -/
  scmQueue : List ScmRequest
  /-- the writes that the MCU has asked for and SCM has not received, in order (R84, R114) -/
  mcuOut : List (ScmAddr × Word60)
  /-- the agents that move next; when empty the CPU moves -/
  sched : List Event
  /-- counts steps: each free value is `Config.draw` at this counter -/
  tick : Nat
deriving DecidableEq, Repr

/-- The one behaviour that the default configuration leaves without a next state. -/
inductive Fault
  /-- A PPU's P would pass 0o7777 under `PPU_P_WRAP = stuck`: the spec's default has no next state (R303, D4). Raised
  by every PPU instruction that forms P + 1 or P + 2 or a Return Jump's t + 1. Safe: the model stops where the machine goes on. -/
  | ppuAddressStuck
deriving DecidableEq, Repr

/-- Why the model gives an instruction no next state. -/
inductive Refusal
  /-- An instruction without a meaning. Raised by no arm of `exec`. Safe. -/
  | notModelled (mnemonic : String)
  /-- 71 or 73 entered with (A) = 0o777777, which the spec puts outside the model (R391, R393, D24). Safe. -/
  | blockCountNegativeZero
deriving DecidableEq, Repr

/-- The CPU before its dead start exchange jump: unspecified registers hold zero (assumption 2). -/
def Cpu.reset : Cpu where
  x := Vector.replicate 8 0
  a := Vector.replicate 8 0
  b := Vector.replicate 8 0
  p := 0
  ras := 0
  fls := 0
  ral := 0
  fll := 0
  psd := 0
  nea := 0
  eea := 0
  bpa := 0
  ciw := 0
  parcel := 0
  iws := []
  slip := none
  phase := .deadStart
  flow := .seq
  recent := []
  afterReset := none
  didReset := none
  issued := 0
  inc30 := 0
  branched := false
  seqInc := false
  parityLate := false

/-- An input side after Clear I/O (R62). That no pulse is in flight, or received and not served, is the model's choice
(assumption 2). -/
def MuxIn.reset : MuxIn where
  bufAddr := 0
  asmCnt := 0
  asm := 0
  wordReq := false
  ireq := false
  lockout := false
  held := false
  wordIn := 0
  recIn := 0
  endRec := false
  lines := 0
  sentS := 0

/-- An output side after Clear I/O (R62). That no pulse is in flight, received or owed, and no word in the ranks, is the
model's choice (assumption 2). -/
def MuxOut.reset : MuxOut where
  bufAddr := 0
  disCnt := 0
  dis := 0
  wordReq := false
  active := false
  ireq := false
  lockout := false
  held := false
  owesRec := 0
  owesWord := false
  lines := 0
  sentW := 0
  sentR := 0
  resIn := 0
  ranks := []
  shown := false

/-- A PPU just after its dead start signal has dropped (R63): the load from input cable 0 is in progress.
That no pulse is in flight on its cables is the model's choice (assumption 2). -/
def Ppu.reset : Ppu where
  a := 0o007777
  p := 0
  q := 0
  x := 0
  fd := 0o7100
  k := 1
  iop := .inBlock 0 true true
  mem := []
  inw := Vector.replicate 8 false
  inr := Vector.replicate 8 false
  outw := Vector.replicate 8 false
  outr := Vector.replicate 8 false
  outData := Vector.replicate 8 0
  inLines := Vector.replicate 8 0
  sentW := Vector.replicate 8 0
  sentR := Vector.replicate 8 0
  sentS := Vector.replicate 8 0
  stopped := false
  parErr := 0

/-- The machine right after reset: every dead start signal has just dropped, Clear I/O is down. The next CPU step is
the exchange jump at absolute 0 (R61, R473); every PPU waits for its program on input cable 0 (R63, R475). -/
def State.reset : State where
  cfg := Config.default
  cpu := Cpu.reset
  scm := []
  lcm := []
  clk := 0
  rtcFlag := false
  mux := Vector.replicate 16 ⟨MuxIn.reset, MuxOut.reset⟩
  ppus := Vector.replicate 16 Ppu.reset
  cur := 1
  mcuSwitch := false
  scmLatch := ⟨0, 0⟩
  lcmLatch := ⟨0, 0⟩
  scmBad := []
  lcmBad := []
  scmQueue := []
  mcuOut := []
  sched := []
  tick := 0

end Sys2Proof.Machine
end

