-- ==== Sys2Proof/Machine/Memory.lean ====
section
/-!
DEFINITION. Reading and writing a word memory in its canonical form (20_memory.md R71, R75; assumption 3).
-/

namespace Sys2Proof.Machine

/-- The word at address `a`; zero where the memory lists nothing (assumption 3). -/
def memRead {w : Nat} : Mem w → Nat → BitVec w
  | [], _ => 0
  | (b, v) :: m, a => if a = b then v else memRead m a

/-- List the word `v` at address `a`, keeping the addresses in order. -/
def memPut {w : Nat} : Mem w → Nat → BitVec w → Mem w
  | [], a, v => [(a, v)]
  | (b, u) :: m, a, v =>
    if a < b then (a, v) :: (b, u) :: m
    else if a = b then (a, v) :: m
    else (b, u) :: memPut m a v

/-- List nothing at address `a`. -/
def memDel {w : Nat} (m : Mem w) (a : Nat) : Mem w := m.filter (fun c => c.1 != a)

/-- Write one word; a zero is written by listing nothing, so that equal memories are equal lists. -/
def memWrite {w : Nat} (m : Mem w) (a : Nat) (v : BitVec w) : Mem w :=
  if v = 0 then memDel m a else memPut m a v

/-- The canonical form: addresses strictly rising, no entry equal to what an unlisted address reads as. -/
abbrev Memory.wf {w : Nat} (m : Mem w) : Prop :=
  m.Pairwise (fun c d => c.1 < d.1) ∧ ∀ c ∈ m, c.2 ≠ 0

end Sys2Proof.Machine
end

