-- ==== Sys2Proof/Machine/Operands.lean ====
section
/-!
DEFINITION. The operands: registers of the CPU (10_state.md R21 to R24), parcels of the current word, the operands of
the Increment unit (44 R282), and the address modes of a PPU (45_ppu_instructions.md R304 to R308).
-/

namespace Sys2Proof.Machine

open Sys2Proof

/-! ### CPU registers -/

/-- `X[i]`. -/
def getX (s : State) (i : Reg) : Word60 := s.cpu.x[i]

/-- `A[i]`. -/
def getA (s : State) (i : Reg) : Word18 := s.cpu.a[i]

/-- `B[i]`; B0 always reads zero (R24). -/
def getB (s : State) (i : Reg) : Word18 := if i = 0 then 0 else s.cpu.b[i]

/-- `X[i] <- v`. -/
def setX (s : State) (i : Reg) (v : Word60) : State := { s with cpu := { s.cpu with x := s.cpu.x.set i v } }

/-- `A[i] <- v`, the register alone (the storage reference is `setAddr`). -/
def setAReg (s : State) (i : Reg) (v : Word18) : State := { s with cpu := { s.cpu with a := s.cpu.a.set i v } }

/-- `B[i] <- v`; a write to B0 is discarded (R24). -/
def setB (s : State) (i : Reg) (v : Word18) : State :=
  if i = 0 then s else { s with cpu := { s.cpu with b := s.cpu.b.set i v } }

/-- The low 18 bits of `X[j]` (R282 a). -/
def getX18 (s : State) (j : Reg) : Word18 := (getX s j).setWidth 18

/-- (P + 1)[17:0] (R30). -/
def nextWord (s : State) : Word18 := s.cpu.p + 1

/-- The channel number B[k][3:0] (40 R153). -/
def channelOf (s : State) (k : Reg) : Unit16 := ⟨(getB s k).toNat % 16, Nat.mod_lt _ (by decide)⟩

/-- Parcel `n` of a word: bits 59-15n to 45-15n (R120). -/
def parcelOf (w : Word60) (n : Nat) : Parcel := (w >>> (45 - 15 * n)).setWidth 15

/-! ### PPU registers and memory -/

/-- The PPU that executes. -/
def getPpu (s : State) : Ppu := s.ppus[s.cur]

/-- Replace the PPU that executes. -/
def setPpu (s : State) (u : Ppu) : State := { s with ppus := s.ppus.set s.cur u }

/-- `M[a]` (R52). -/
def Ppu.read (u : Ppu) (a : Word12) : Word12 := memRead u.mem a.toNat

/-- `M[a] <- v`. -/
def Ppu.write (u : Ppu) (a v : Word12) : Ppu := { u with mem := memWrite u.mem a.toNat v }

/-- `zext_18(d)` (R304). -/
def opNo (d : BitVec 6) : Word18 := d.setWidth 18

/-- `d ++ m` (R305). -/
def opConst (d : BitVec 6) (m : Word12) : Word18 := d ++ m

/-- The address `zext_12(d)` of direct mode (R306). -/
def addrDirect (d : BitVec 6) : Word12 := d.setWidth 12

/-- The address of indirect mode, M[zext_12(d)] (R308). -/
def addrIndirect (u : Ppu) (d : BitVec 6) : Word12 := u.read (addrDirect d)

/-- `ix(d, m)`, indexed mode (R307). -/
def addrIndexed (u : Ppu) (d : BitVec 6) (m : Word12) : Word12 :=
  if d = 0 then m else ocAdd m (u.read (addrDirect d))

/-- The channel c = d[2:0] (46_ppu_io.md R380). -/
def cableOf (d : BitVec 6) : Cable := ⟨d.toNat % 8, Nat.mod_lt _ (by decide)⟩

/-- The displacement target of 03 to 07: oc_add_12(P, sext_12(d)) (R313). -/
def jumpRel (u : Ppu) (d : BitVec 6) : Word12 := ocAdd u.p (d.signExtend 12)

/-- `next(P, n)` (R303) under `PPU_P_WRAP`; none is the `stuck` case. -/
def nextAddr (wrap : PWrap) (p : Word12) (n : Nat) : Option Word12 :=
  if p.toNat + n ≤ 0o7777 then some (p + BitVec.ofNat 12 n)
  else match wrap with
    | .stuck => none
    | .modulo => some (p + BitVec.ofNat 12 n)
    | .onesComplement => some (ocAdd p (BitVec.ofNat 12 n))

/-- The left circular or right end-off shift of 10 (R318). -/
def shiftA (a : Word18) (d : BitVec 6) : Word18 :=
  if d.msb then a >>> ((~~~d).toNat % 32) else rotl a (d.toNat % 32)

end Sys2Proof.Machine
end

