-- ==== Sys2Proof/Machine/Flags.lean ====
section
/-!
DEFINITION. The PSD flags (10_state.md R33 to R36), the error exit request (60_exceptions.md R416) and the slip of an
imprecise exit (R417).
-/

namespace Sys2Proof.Machine

open Sys2Proof

/-- The 18 flags of the PSD (R34). -/
inductive PsdFlag
  | underflow | overflow | indefinite | step | breakpoint | programRange | scmDirectRange | lcmDirectRange
  | scmBlockRange | lcmBlockRange | scmParity | lcmParity
  | underflowMode | overflowMode | indefiniteMode | stepMode | monitorMode | exitMode
deriving DecidableEq, Repr

/-- The bit of each flag (R34). -/
def psdBit : PsdFlag → Nat
  | .underflow => 0
  | .overflow => 1
  | .indefinite => 2
  | .step => 3
  | .breakpoint => 4
  | .programRange => 5
  | .scmDirectRange => 6
  | .lcmDirectRange => 7
  | .scmBlockRange => 8
  | .lcmBlockRange => 9
  | .scmParity => 10
  | .lcmParity => 11
  | .underflowMode => 12
  | .overflowMode => 13
  | .indefiniteMode => 14
  | .stepMode => 15
  | .monitorMode => 16
  | .exitMode => 17

/-- `PSD.<name>` of a PSD value. -/
def psdHas (psd : Word18) (f : PsdFlag) : Bool := psd.getLsbD (psdBit f)

/-- `PSD.<name>`. -/
def flag (s : State) (f : PsdFlag) : Bool := psdHas s.cpu.psd f

/-- `PSD.<name> <- 1` (R36: setting a flag that is set changes nothing). -/
def setFlag (s : State) (f : PsdFlag) : State :=
  { s with cpu := { s.cpu with psd := s.cpu.psd ||| BitVec.twoPow 18 (psdBit f) } }

/-- Set several flags, each if its test holds. -/
def setFlagIf (s : State) (c : Bool) (f : PsdFlag) : State := if c then setFlag s f else s

/-- `error_request(PSD)` (R416): any of bits 11 to 3, or an arithmetic flag with its mode flag. -/
def errorRequest (psd : Word18) : Bool :=
  (psd &&& 0o7770 != 0) || (psdHas psd .indefinite && psdHas psd .indefiniteMode)
    || (psdHas psd .overflow && psdHas psd .overflowMode) || (psdHas psd .underflow && psdHas psd .underflowMode)

/-- Whether condition flag `f`, once set, is a cause under the mode flags of `psd` (R416). -/
def isCause (psd : Word18) : PsdFlag → Bool
  | .indefinite => psdHas psd .indefiniteMode
  | .overflow => psdHas psd .overflowMode
  | .underflow => psdHas psd .underflowMode
  | .step | .breakpoint | .programRange | .scmDirectRange | .lcmDirectRange | .scmBlockRange | .lcmBlockRange
  | .scmParity | .lcmParity => true
  | .underflowMode | .overflowMode | .indefiniteMode | .stepMode | .monitorMode | .exitMode => false

/-- The slip drawn for flag `f`: 0 to ERROR_EXIT_SLIP, or any number (R417). -/
def drawSlip (s : State) (f : PsdFlag) : Nat :=
  match s.cfg.errorExitSlip with
  | some n => (Config.draw s.tick (.slip (psdBit f))).toNat % (n + 1)
  | none => Config.drawNat s.tick (.slip (psdBit f))

/-- `SLIP <- some (min(s, n))`, or `some s` if it was none (R417). -/
def lowerSlip (old : Option Nat) (n : Nat) : Option Nat :=
  match old with
  | none => some n
  | some m => some (min n m)

/-- A condition flag becomes set, with slip `n` if it was clear and is a cause (R417). -/
def raiseWith (s : State) (f : PsdFlag) (n : Nat) : State :=
  if flag s f then s
  else
    let t := setFlag s f
    if isCause s.cpu.psd f then { t with cpu := { t.cpu with slip := lowerSlip t.cpu.slip n } } else t

/-- A condition flag of slip 0: Step and the block ranges (R417). -/
def raiseNow (s : State) (f : PsdFlag) : State := raiseWith s f 0

/-- A condition flag of slip 0 to ERROR_EXIT_SLIP (R417). -/
def raiseLate (s : State) (f : PsdFlag) : State := raiseWith s f (drawSlip s f)

/-- The 18 bits of the PSD that no instruction changes: the mode flags (R33). -/
def modeMask : Word18 := 0o770000

end Sys2Proof.Machine
end

