-- ==== Sys2Proof/Machine/Ops.lean ====
section
/-!
DEFINITION. The shared operations: SCM and LCM references with their range tests (20_memory.md), the lost-store hazard
(70_reset_and_hazards.md R489), TAKING AN EXCEPTION AND RETURNING FROM ONE, which on this machine are one operation, the
exchange jump (60_exceptions.md R412, R436), and delivering a result.
-/

namespace Sys2Proof.Machine

open Sys2Proof

/-- The outcome of an instruction. -/
abbrev Outcome := Host.Outcome State Fault Refusal

/-! ### Addresses -/

/-- `scm_abs(r) = (RAS + r)[15:0]` (R76). -/
def scmAbs (s : State) (r : Word18) : ScmAddr := (s.cpu.ras + r).setWidth 16

/-- `lcm_abs(r) = (RAL + r)[18:0]` (R90). -/
def lcmAbs (s : State) (r : BitVec 19) : LcmAddr := s.cpu.ral + r

/-- Whether the absolute SCM address names storage (R80). -/
def scmExists (s : State) (a : ScmAddr) : Bool := decide (a.toNat < s.cfg.scmWords)

/-- Whether the absolute LCM address names storage (R88). -/
def lcmExists (s : State) (a : LcmAddr) : Bool := decide (a.toNat < s.cfg.lcmWords)

/-! ### Parity (R57, R82, R89, R433) -/

/-- SCM Parity is set in the PSD of the program that executes; during an exchange sequence freely that of the program
being stored or of the one being loaded (R412 i). Charged to the one being stored after its PSD word has been written, the
flag is lost (DESIGN CHOICE, assumption 12). -/
def chargeScmParity (s : State) : State :=
  match s.cpu.phase with
  | .exchanging _ =>
    if Config.drawBool s.tick .parityCharge then { s with cpu := { s.cpu with parityLate := true } }
    else raiseLate s .scmParity
  | _ => raiseLate s .scmParity

/-- The latches take the error; whether they keep an earlier one is free (R57), for each error by itself: each detection
takes its error from those that wait, so that two in one step, at one address too, have draws of their own (DESIGN CHOICE,
assumption 29). -/
def latchScm (s : State) (e : ScmAddr × BitVec 5) : State :=
  if s.scmLatch.sections != 0 && !Config.drawBool s.tick (.latchOverwrite false s.scmBad.length) then s
  else { s with scmLatch := ⟨e.1, e.2⟩ }

/-- The same for LCM. -/
def latchLcm (s : State) (e : LcmAddr × BitVec 4) : State :=
  if s.lcmLatch.sections != 0 && !Config.drawBool s.tick (.latchOverwrite true s.lcmBad.length) then s
  else { s with lcmLatch := ⟨e.1, e.2⟩ }

/-- A reference to SCM address `a` detects the error declared for it, if any: the flag and the latches. -/
def scmDetect (s : State) (a : ScmAddr) : State :=
  match s.scmBad.find? (fun e => e.1 == a) with
  | none => s
  | some e => latchScm (chargeScmParity { s with scmBad := s.scmBad.erase e }) e

/-- A read of LCM address `a` detects the error declared for it, if any. -/
def lcmDetect (s : State) (a : LcmAddr) : State :=
  match s.lcmBad.find? (fun e => e.1 == a) with
  | none => s
  | some e => latchLcm (raiseLate { s with lcmBad := s.lcmBad.erase e } .lcmParity) e

/-- Whether the next reference to `a` has been declared bad. -/
def scmIsBad (s : State) (a : ScmAddr) : Bool := s.scmBad.any (fun e => e.1 == a)

/-- Whether the next read of the LCM word at `a` has been declared bad. -/
def lcmIsBad (s : State) (a : LcmAddr) : Bool := s.lcmBad.any (fun e => e.1 == a)

/-! ### References -/

/-- The word that a read of SCM address `a` delivers; free where the word does not exist or has bad parity (R80, R82).
`who` tells apart the references of one step. -/
def scmValue (s : State) (who : Nat) (a : ScmAddr) : Word60 :=
  if scmExists s a && !scmIsBad s a then memRead s.scm a.toNat else Config.draw s.tick (.scmWord who a.toNat)

/-- The word that a read of LCM address `a` delivers (R88, R89). -/
def lcmValue (s : State) (a : LcmAddr) : Word60 :=
  if lcmExists s a && !lcmIsBad s a then memRead s.lcm a.toNat else Config.draw s.tick (.lcmWord a.toNat)

/-- Write the SCM word at `a`; nothing happens where it does not exist (R80). -/
def scmPut (s : State) (a : ScmAddr) (v : Word60) : State :=
  if scmExists s a then { s with scm := memWrite s.scm a.toNat v } else s

/-- Write the LCM word at `a` (R88). -/
def lcmPut (s : State) (a : LcmAddr) (v : Word60) : State :=
  if lcmExists s a then { s with lcm := memWrite s.lcm a.toNat v } else s

/-- A store that can still be aborted at `a` is done (another store to the same word came after it). -/
def settleRef (a : ScmAddr) : ScmRef → ScmRef
  | .store b old => if a = b then .done else .store b old
  | .done => .done

/-- Every recorded store to `a` is done. -/
def scmForget (s : State) (a : ScmAddr) : State :=
  { s with cpu := { s.cpu with recent := s.cpu.recent.map (settleRef a) } }

/-- A write by anything other than an instruction 50 to 57: block copy, Return Jump, MUX, MCU. -/
def scmStore (s : State) (a : ScmAddr) (v : Word60) : State := scmDetect (scmForget (scmPut s a v) a) a

/-- Record a reference of an instruction 50 to 57: the two most recent are kept (R489). -/
def noteRef (s : State) (r : ScmRef) : State :=
  { s with cpu := { s.cpu with recent := (r :: s.cpu.recent).take 2 } }

/-! ### The lost store (R489) -/

/-- Put back what a store replaced. What has read the word since keeps what it read: the rule is silent on that (DESIGN
CHOICE, assumption 26). -/
def undoStore (s : State) : ScmRef → State
  | .store a old => scmPut s a old
  | .done => s

/-- Whether two references are stores to one word. -/
def sameWord : ScmRef → ScmRef → Bool
  | .store a _, .store b _ => a == b
  | _, _ => false

/-- Each of the last two stores is performed or not, by a draw of its own. -/
def abortStores (s : State) : State :=
  let drop1 := Config.drawBool s.tick (.abortStore 1)
  let drop2 := Config.drawBool s.tick (.abortStore 2)
  match s.cpu.recent with
  | [] => s
  | [r1] => if drop1 then undoStore s r1 else s
  | r1 :: r2 :: _ =>
    let t := if drop1 then undoStore s r1 else s
    if drop2 && !(sameWord r1 r2 && !drop1) then undoStore t r2 else t

/-- What becoming set of SCMDirectRange does besides: the hazard of R489. -/
def beforeRange (s : State) : State :=
  if flag s .scmDirectRange then s
  else
    let t := abortStores s
    { t with cpu := { t.cpu with recent := [] } }

/-- SCMDirectRange set by an instruction 50 to 57: exit with slip (R417, R423). -/
def rangeLate (s : State) : State := raiseLate (beforeRange s) .scmDirectRange

/-- SCMDirectRange set by the P test or by a Return Jump: the exit is taken there (R417, R423). -/
def rangeNow (s : State) : State := setFlag (beforeRange s) .scmDirectRange

/-! ### Setting an A register (44 R283) -/

/-- The SCM read of `set_A` for i in 1 to 5, when A[i] = r has been set. -/
def loadX (s : State) (i : Reg) (r : Word18) : State :=
  let a := scmAbs s r
  if r < s.cpu.fls then noteRef (scmDetect (setX s i (scmValue s 0 a)) a) .done
  else if s.cfg.note8Fco then rangeLate (setX s i 0)
  else rangeLate (scmDetect (setX s i (scmValue s 0 a)) a)

/-- The SCM write of `set_A` for i in 6 and 7, when A[i] = r has been set. -/
def storeX (s : State) (i : Reg) (r : Word18) : State :=
  let a := scmAbs s r
  if r < s.cpu.fls then
    if flag s .scmDirectRange then s
    else noteRef (scmDetect (scmPut s a (getX s i)) a) (.store a (memRead s.scm a.toNat))
  else rangeLate s

/-- `set_A(i, r)` (R283). -/
def setAddr (s : State) (i : Reg) (r : Word18) : State :=
  let t := setAReg s i r
  if i = 0 then t
  else if i.val ≤ 5 then loadX t i r
  else storeX t i r

/-! ### The exchange package (10_state.md R41) -/

/-- The fields of a package: place, width, value. -/
def pkgFields (l : PkgLayout) (c : Cpu) (storedP : Word18) : List (Slot × Nat × Nat) :=
  [(l.p, 18, storedP.toNat), (l.ras, 18, c.ras.toNat), (l.fls, 18, c.fls.toNat), (l.ral, 19, c.ral.toNat),
   (l.fll, 19, c.fll.toNat), (l.psd, 18, c.psd.toNat), (l.nea, 16, c.nea.toNat), (l.eea, 16, c.eea.toNat),
   (l.bpa, 18, c.bpa.toNat)]
  ++ (List.finRange 8).map (fun n => (l.a[n], 18, c.a[n].toNat))
  ++ (List.finRange 7).map (fun n => (l.b[n], 18, (c.b[n.val + 1]'(by omega)).toNat))
  ++ (List.finRange 8).map (fun n => (⟨l.x[n], 0⟩, 60, c.x[n].toNat))

/-- Put a field of `width` bits into a word at bit `lsb`. -/
def putField (v : Word60) (lsb width value : Nat) : Word60 :=
  (v &&& ~~~((BitVec.ofNat 60 (2 ^ width - 1)) <<< lsb)) ||| ((BitVec.ofNat 60 (value % 2 ^ width)) <<< lsb)

/-- Word `w` of a package: its fields over the bits `base` that belong to none. -/
def pkgWord (fields : List (Slot × Nat × Nat)) (w : Nat) (base : Word60) : Word60 :=
  fields.foldl (fun v f => if f.1.word = w then putField v f.1.lsb f.2.1 f.2.2 else v) base

/-- A field of a package. -/
def getField (pkg : List Word60) (at_ : Slot) (width : Nat) : Nat := ((pkg.getD at_.word 0).toNat >>> at_.lsb) % 2 ^ width

/-- `xpkg_decode`: the registers that a package loads. -/
def pkgDecode (l : PkgLayout) (pkg : List Word60) (c : Cpu) : Cpu :=
  { c with
    p := BitVec.ofNat 18 (getField pkg l.p 18)
    ras := BitVec.ofNat 18 (getField pkg l.ras 18)
    fls := BitVec.ofNat 18 (getField pkg l.fls 18)
    ral := BitVec.ofNat 19 (getField pkg l.ral 19)
    fll := BitVec.ofNat 19 (getField pkg l.fll 19)
    psd := BitVec.ofNat 18 (getField pkg l.psd 18)
    nea := BitVec.ofNat 16 (getField pkg l.nea 16)
    eea := BitVec.ofNat 16 (getField pkg l.eea 16)
    bpa := BitVec.ofNat 18 (getField pkg l.bpa 18)
    a := l.a.map (fun f => BitVec.ofNat 18 (getField pkg f 18))
    b := #v[0, BitVec.ofNat 18 (getField pkg l.b[0] 18), BitVec.ofNat 18 (getField pkg l.b[1] 18),
      BitVec.ofNat 18 (getField pkg l.b[2] 18), BitVec.ofNat 18 (getField pkg l.b[3] 18),
      BitVec.ofNat 18 (getField pkg l.b[4] 18), BitVec.ofNat 18 (getField pkg l.b[5] 18),
      BitVec.ofNat 18 (getField pkg l.b[6] 18)]
    x := l.x.map (fun w => pkg.getD w 0) }

/-! ### Taking an exception and returning from one: the exchange jump (R412)

It is a sequence of steps. `exchangeJump` begins it. Each `exchangeStep` makes one of the 32 references, and the last
loads the registers. Any other agent may move between two of them (R74, R498), and the CPU dead start may cut the
sequence short (R473). The registers do not change until the load, so the package that a step writes is that of the
beginning. -/

/-- The address of word `w` of the package at `a`: (a + w)[15:0] (R411). -/
def pkgAddr (a : ScmAddr) (w : Nat) : ScmAddr := a + BitVec.ofNat 16 w

/-- `ExchangeJump(a, storedP)` begins, asked for by `who`. -/
def exchangeJump (s : State) (a : ScmAddr) (storedP : Word18) (who : Initiator) : State :=
  { s with cpu := { s.cpu with
      phase := .exchanging ⟨a, storedP, who, Vector.replicate 16 none, Vector.replicate 16 false⟩
      flow := .exited
      parityLate := false } }

/-- The error exit: an exchange jump to (EEA) (R416). -/
def errorExit (s : State) (storedP : Word18) : State := exchangeJump s s.cpu.eea storedP .errorExit

/-- `xpkg_encode`, word `w` of the package to be stored: bits that belong to no field are free (R41, D1); after a dead
start the whole word is (R61, R473). -/
def exchangeOut (s : State) (x : Exchange) (w : Nat) : Word60 :=
  if x.initiator = .deadStart then Config.draw s.tick (.bootWord w)
  else pkgWord (pkgFields s.cfg.layout s.cpu x.storedP) w (Config.draw s.tick (.pkgSpare w))

/-- The word that the next reference concerns: any word not written yet, since the source gives no order (R412). -/
def exchangeWord (s : State) (x : Exchange) : Option (Fin 16) :=
  let todo := (List.finRange 16).filter (fun w => !x.put[w])
  todo[(Config.draw s.tick .exchangeOrder).toNat % todo.length]?

/-- The read of word `w`. -/
def exchangeRead (s : State) (x : Exchange) (w : Fin 16) : State :=
  let a := pkgAddr x.addr w
  let t := scmDetect s a
  { t with cpu := { t.cpu with phase := .exchanging { x with got := x.got.set w (some (scmValue s 200 a)) } } }

/-- The write of word `w`, which has been read. -/
def exchangeWrite (s : State) (x : Exchange) (w : Fin 16) : State :=
  let a := pkgAddr x.addr w
  let t := scmDetect (scmPut s a (exchangeOut s x w)) a
  { t with cpu := { t.cpu with phase := .exchanging { x with put := x.put.set w true } } }

/-- The state of the CPU that a new execution interval begins with (R412): the loaded registers, the stack void,
PARCEL 0, SLIP none; the tests of R418 come with its first step. -/
def beginInterval (c : Cpu) : Cpu :=
  { c with iws := [], parcel := 0, slip := none, phase := .newInterval, flow := .exited, recent := [],
           issued := 0, inc30 := 0, branched := false, seqInc := false, parityLate := false }

/-- The load of the registers at the end of the sequence. A parity error of the sequence charged to the PSD loaded sets its
flag here, and is then as a flag that arrived set: the exit comes before any instruction (R418), although R412 (i) refers to
R433, whose exit follows with a slip. The slip drawn here counts no word (DESIGN CHOICE, assumption 12). -/
def exchangeLoad (s : State) (x : Exchange) : State :=
  let t := { s with cpu := beginInterval (pkgDecode s.cfg.layout (x.got.toList.map (·.getD 0)) s.cpu) }
  if s.cpu.parityLate then raiseLate t .scmParity else t

/-- One step of an exchange sequence; for each word the read precedes the write (R412). -/
def exchangeStep (s : State) (x : Exchange) : State :=
  match exchangeWord s x with
  | none => exchangeLoad s x
  | some w => if x.got[w].isNone then exchangeRead s x w else exchangeWrite s x w

/-! ### Results -/

/-- `pc <- target` in a CPU rule (R18). -/
def jumpTo (s : State) (target : Word18) : State := { s with cpu := { s.cpu with flow := .jump target } }

/-- A conditional `pc <- target`. -/
def jumpIf (s : State) (c : Bool) (target : Word18) : State := if c then jumpTo s target else s

/-- The outcome of an operation of the executing PPU after which P <- next(P, n) (R303). Q keeps its value here and in every
instruction but 71 and 73, where R50 defines none and nothing reads it: DESIGN CHOICE, assumption 21. -/
def ppuThen (s : State) (u : Ppu) (n : Nat) : Outcome :=
  match nextAddr s.cfg.pWrap u.p n with
  | some p => .next (setPpu s { u with p := p })
  | none => .fault .ppuAddressStuck

/-- The outcome of a PPU jump. -/
def ppuJump (s : State) (u : Ppu) (target : Word12) : Outcome :=
  .next (setPpu s { u with p := target })

/-- The outcome of a conditional PPU jump in an instruction of `n` words. -/
def ppuJumpIf (s : State) (u : Ppu) (c : Bool) (target : Word12) (n : Nat) : Outcome :=
  if c then ppuJump s u target else ppuThen s u n

end Sys2Proof.Machine
end

