-- ==== Sys2Proof/Machine/Mux.lean ====
section
/-!
DEFINITION. The I/O Multiplexer: interrupt requests and lockout (20_memory.md R107), the channel transfers (R108 to
R112) and the interrupt that a request asks for (60_exceptions.md R441, R443).
-/

namespace Sys2Proof.Machine

open Sys2Proof

/-- Channel `c`. -/
def getMux (s : State) (c : Unit16) : MuxChan := s.mux[c]

/-- Replace the input side of channel `c`. -/
def setIn (s : State) (c : Unit16) (m : MuxIn) : State := { s with mux := s.mux.set c { s.mux[c] with inp := m } }

/-- Replace the output side of channel `c`. -/
def setOut (s : State) (c : Unit16) (m : MuxOut) : State := { s with mux := s.mux.set c { s.mux[c] with out := m } }

/-- c in `MUX_CHANNELS` (R9); channel 0 has no buffers (R106). -/
def channelPresent (s : State) (c : Unit16) : Bool := c != 0 && s.cfg.muxPresent[c]

/-! ### Requests (R107) -/

/-- An interrupt event on an input side: rules (1) and (3). -/
def MuxIn.event (m : MuxIn) : MuxIn := if m.ireq || m.lockout then { m with held := true } else { m with ireq := true }

/-- An interrupt event on an output side: rules (1) and (3). -/
def MuxOut.event (m : MuxOut) : MuxOut := if m.ireq || m.lockout then { m with held := true } else { m with ireq := true }

/-- Rule (4) on an input side. -/
def MuxIn.release (m : MuxIn) : MuxIn := { m with lockout := false, ireq := m.ireq || m.held, held := false }

/-- Rule (4) on an output side. -/
def MuxOut.release (m : MuxOut) : MuxOut := { m with lockout := false, ireq := m.ireq || m.held, held := false }

/-- A 013 releases every Interrupt Lockout (R107 (4), 40 R154 f). -/
def releaseLockouts (s : State) : State :=
  { s with mux := s.mux.map (fun ch => { inp := ch.inp.release, out := ch.out.release }) }

/-- The pending request that is taken: lowest channel, input before output (R443). -/
def pendingIo (s : State) : Option (Unit16 × Bool) :=
  (List.finRange 16).findSome? fun c =>
    if channelPresent s c && s.mux[c].inp.ireq then some (c, true)
    else if channelPresent s c && s.mux[c].out.ireq then some (c, false)
    else none

/-- The package area of a request (R100, R441): 0o40 * c, and 0o20 more for an output side. -/
def ioPackage (c : Unit16) (input : Bool) : ScmAddr := BitVec.ofNat 16 (32 * c.val + if input then 0 else 16)

/-- Acceptance of a request (R441): IREQ false, LOCKOUT true, and the exchange jump. -/
def acceptIo (s : State) (c : Unit16) (input : Bool) (next : Word18) : State :=
  let t := if input then setIn s c { s.mux[c].inp with ireq := false, lockout := true }
           else setOut s c { s.mux[c].out with ireq := false, lockout := true }
  exchangeJump t (ioPackage c input) next .ioInterrupt

/-! ### Buffers (R102, R103) -/

/-- `(BUFADDR + 1) mod L`. -/
def bufNext (b : Buffer) (a : BitVec 8) : BitVec 8 := BitVec.ofNat 8 ((a.toNat + 1) % b.length)

/-- Whether an advance to `a` crossed a field boundary (R103). Any advance to 0 or to L/2 counts: from an address at or past
L, which only Clear I/O can leave, too (DESIGN CHOICE, assumption 41). -/
def crossed (b : Buffer) (a : BitVec 8) : Bool := decide (a.toNat = 0) || decide (a.toNat = b.length / 2)

/-- The SCM address of buffer word `a`. -/
def bufScm (b : Buffer) (a : BitVec 8) : ScmAddr := BitVec.ofNat 16 (b.first + a.toNat)

/-- Put a 12-bit word at position `n` of an assembly register: bits 59-12n to 48-12n (R72). -/
def assemble (v : Word60) (n : Nat) (w : Word12) : Word60 :=
  (v &&& ~~~((0o7777 : Word60) <<< (48 - 12 * n))) ||| ((w.setWidth 60) <<< (48 - 12 * n))

/-- Position `n` of a disassembly register (R72). -/
def disassemble (v : Word60) (n : Nat) : Word12 := (v >>> (48 - 12 * n)).setWidth 12

/-- Zeros in positions `n` to 4 (R109). -/
def zeroFill (v : Word60) (n : Nat) : Word60 := v &&& highMask (12 * n)

/-! ### Instructions 0160 and 0170 (40 R159, R161) -/

/-- 0160 on an existing channel. -/
def resetInput (s : State) (c : Unit16) : State :=
  setIn s c { s.mux[c].inp with bufAddr := 0, asmCnt := 0 }

/-- 0170 on an existing channel. Its commands have priority over a record being sent (R161, R113 b): the words in the
ranks and the Word Pulse owed for the old word are dropped, so that the first word of the new record goes out first,
with the Record Pulses owed. -/
def resetOutput (s : State) (c : Unit16) : State :=
  let m := s.mux[c].out
  setOut s c { m with
    bufAddr := 0, disCnt := 0, wordReq := true, active := true, owesRec := m.owesRec + 1,
    owesWord := false, ranks := [], shown := false }

/-! ### Input transfers (R108, R109, R111) -/

/-- The far end's data lines, given by the caller: the MUX samples one 12-bit word. A normal channel sends a Resume
Pulse; a high-speed channel has its Resume level (`MuxIn.levelUp`) instead (R111). -/
def MuxIn.sample (m : MuxIn) (highSpeed : Bool) (w : Word12) : MuxIn :=
  let full := decide (4 ≤ m.asmCnt.toNat)
  { m with
    asm := assemble m.asm m.asmCnt.toNat w
    asmCnt := if full then 0 else m.asmCnt + 1
    wordReq := full
    wordIn := m.wordIn - 1
    sentS := if highSpeed then m.sentS else m.sentS + 1 }

/-- Whether the Resume level of a high-speed input side is up (R111). -/
def MuxIn.levelUp (m : MuxIn) : Bool := !m.wordReq && !m.held

/-- Whether an input side can sample (R107 (3), R108). -/
def MuxIn.canSample (m : MuxIn) : Bool := decide (0 < m.wordIn) && !m.wordReq && !m.held

/-- The MUX serves a Record Pulse: a partly assembled word is filled and waits for SCM; otherwise the event is raised
at once. A Resume Pulse answers the Record Pulse (R109), on a high-speed channel too, where the level stands in place of
the Resume Pulses of words alone (R111). -/
def MuxIn.record (m : MuxIn) : MuxIn :=
  let t := { m with recIn := m.recIn - 1, sentS := m.sentS + 1 }
  if m.asmCnt = 0 then t.event
  else { t with asm := zeroFill m.asm m.asmCnt.toNat, asmCnt := 0, wordReq := true, endRec := true }

/-- Whether an input side can serve a Record Pulse. -/
def MuxIn.canRecord (m : MuxIn) : Bool := decide (0 < m.recIn) && !m.wordReq && !m.held

/-- After SCM accepted the word: advance, and one event if a boundary was crossed or the record ended (R108, R109). -/
def MuxIn.stored (m : MuxIn) (b : Buffer) : MuxIn :=
  let a := bufNext b m.bufAddr
  let t := { m with bufAddr := a, wordReq := false, endRec := false, asmCnt := 0 }
  if m.endRec || crossed b a then t.event else t

/-! ### What SCM serves (R84, R93)

SCM serves requests in the order in which it receives them; how it receives them is Machine/ScmOrder.lean. -/

/-- Whether a side has a Word Request out. -/
def wordReqOut (s : State) (c : Unit16) (input : Bool) : Bool :=
  channelPresent s c && (if input then s.mux[c].inp.wordReq else s.mux[c].out.wordReq)

/-- Whether a request that SCM has received still stands: a channel may have withdrawn its own. -/
def requestOut (s : State) : ScmRequest → Bool
  | .mux c input => wordReqOut s c input
  | _ => true

/-- The priority of a request among those received simultaneously, the lowest number first (R84). -/
def ScmRequest.rank : ScmRequest → Nat
  | .exchange => 1
  | .increment => 2
  | .returnJump => 3
  | .mux _ _ => 4
  | .mcu _ _ => 4
  | .fetch => 5
  | .blockCopy => 6

/-- Whether a request is the CPU's: every one whose rank is not the multiplexer's. -/
def ScmRequest.ofCpu (r : ScmRequest) : Bool := r.rank != 4

/-- Whether a request is a channel's. -/
def ScmRequest.ofMux : ScmRequest → Bool
  | .mux _ _ => true
  | _ => false

/-- The request that SCM serves next: the first one received. -/
def servedRequest (s : State) : Option ScmRequest := s.scmQueue.find? (requestOut s)

/-- That request has been served. -/
def scmServed (s : State) (r : ScmRequest) : State := { s with scmQueue := s.scmQueue.erase r }

/-- The CPU's request has been served, or withdrawn: SCM has none of its any more. -/
def cpuServed (s : State) : State := { s with scmQueue := s.scmQueue.filter (fun r => !r.ofCpu) }

/-- SCM accepts the Word Request of input side `c`. -/
def muxStore (s : State) (c : Unit16) : State :=
  let m := s.mux[c].inp
  if servedRequest s = some (.mux c true) then
    let t := scmServed (setIn s c (m.stored s.cfg.inBuf[c])) (.mux c true)
    scmStore t (bufScm s.cfg.inBuf[c] m.bufAddr) m.asm
  else s

/-! ### Output transfers (R110, R112) -/

/-- SCM delivers the word that output side `c` requested. A normal channel puts its upper 12 bits on the lines and owes
a Word Pulse; a high-speed channel's ranks take it by `muxAhead`. -/
def muxFetch (s : State) (c : Unit16) : State :=
  let m := s.mux[c].out
  if servedRequest s = some (.mux c false) then
    let a := bufScm s.cfg.outBuf[c] m.bufAddr
    let v := scmValue s 300 a
    let t : MuxOut := { m with dis := v, wordReq := false, disCnt := 0 }
    let u : MuxOut := if s.cfg.highSpeed[c] then t else { t with lines := disassemble v 0, owesWord := true }
    scmDetect (scmServed (setOut s c u) (.mux c false)) a
  else s

/-- The buffer address advances when the first (normal) or second (high-speed) 12-bit word of a group has gone. -/
def MuxOut.advance (m : MuxOut) (b : Buffer) : MuxOut :=
  let a := bufNext b m.bufAddr
  let t := { m with bufAddr := a }
  if crossed b a then t.event else t

/-- A high-speed output side runs ahead of the PPU by up to three 12-bit words (R112). -/
def muxAhead (s : State) (c : Unit16) : State :=
  let m := s.mux[c].out
  if s.cfg.highSpeed[c] && m.active && !m.wordReq && !m.held && decide (m.ranks.length < 3) && decide (m.disCnt.toNat < 5) then
    let t := { m with ranks := m.ranks ++ [disassemble m.dis m.disCnt.toNat], disCnt := m.disCnt + 1 }
    let u := if m.disCnt = 1 then t.advance s.cfg.outBuf[c] else t
    setOut s c (if m.disCnt = 4 then { u with wordReq := true } else u)
  else s

/-- Output side `c` sends the Word Pulse it owes, with the Record Pulses it owes; not while it is held (R107 (3)), and
nothing while it is idle (R110). -/
def muxSend (s : State) (c : Unit16) : State :=
  let m := s.mux[c].out
  if m.held || !m.active then s
  else if s.cfg.highSpeed[c] then
    match m.ranks with
    | [] => s
    | w :: _ =>
      if m.shown then s
      else setOut s c { m with lines := w, shown := true, sentW := m.sentW + 1, sentR := m.sentR + m.owesRec, owesRec := 0 }
  else if m.owesWord then
    setOut s c { m with owesWord := false, sentW := m.sentW + 1, sentR := m.sentR + m.owesRec, owesRec := 0 }
  else s

/-- Output side `c` serves a Resume Pulse (R110, R112); an idle side drops it. One that comes while a word is requested, or
its Word Pulse still owed, waits and is then the answer to that word: DESIGN CHOICE, assumption 18. -/
def muxResume (s : State) (c : Unit16) : State :=
  let m := s.mux[c].out
  if decide (m.resIn = 0) then s
  else if !m.active then setOut s c { m with resIn := m.resIn - 1 }
  else if m.held then s
  else if s.cfg.highSpeed[c] then
    if m.shown then setOut s c { m with resIn := m.resIn - 1, ranks := m.ranks.drop 1, shown := false } else s
  else if m.wordReq || m.owesWord then s
  else
    let t := { m with resIn := m.resIn - 1, disCnt := m.disCnt + 1 }
    let u := if m.disCnt = 0 then t.advance s.cfg.outBuf[c] else t
    if m.disCnt.toNat < 4 then
      setOut s c { u with lines := disassemble m.dis (m.disCnt.toNat + 1), owesWord := true }
    else setOut s c { u with disCnt := 5, wordReq := true }

/-! ### Clear I/O (R472) -/

/-- An input side while Clear I/O is up: requests, lockout and held event false, the rest free (D12). -/
def MuxIn.clear (m : MuxIn) (t c : Nat) : MuxIn :=
  { m with
    wordReq := false, ireq := false, lockout := false, held := false, endRec := false
    bufAddr := low (Config.draw t (.clearIo c 0))
    asmCnt := BitVec.ofNat 3 ((Config.draw t (.clearIo c 1)).toNat % 5)
    asm := Config.draw t (.clearIo c 2) }

/-- An output side while Clear I/O is up: requests, lockout, held event and ACTIVE false, the rest free (D12), a Record
Pulse still owed among it. What the ranks hold and whether a Word Pulse is owed is left as it was: an idle side sends
nothing, and the 0170 that makes it active again drops both. -/
def MuxOut.clear (m : MuxOut) (t c : Nat) : MuxOut :=
  { m with
    wordReq := false, ireq := false, lockout := false, held := false, active := false
    owesRec := if Config.drawBool t (.clearIo c 6) then 0 else m.owesRec
    bufAddr := low (Config.draw t (.clearIo c 3))
    disCnt := BitVec.ofNat 3 ((Config.draw t (.clearIo c 4)).toNat % 6)
    dis := Config.draw t (.clearIo c 5) }

/-- Clear I/O on every channel; SCM has no request of theirs any more. -/
def clearIo (s : State) : State :=
  { s with
    scmQueue := s.scmQueue.filter (fun r => !r.ofMux)
    mux := s.mux.mapFinIdx fun c ch _ => { inp := ch.inp.clear s.tick c, out := ch.out.clear s.tick c } }

end Sys2Proof.Machine
end

