-- ==== Sys2Proof/Machine/Monitor.lean ====
section
/-!
DEFINITION. Instructions 00 and 011 to 017: error exit, block copy, exchange exit, LCM references, channel buffers
(40_cpu_monitor_lcm_io.md), one definition for each, over shared operations.
-/

namespace Sys2Proof.Machine

open Sys2Proof

/-! ### Block copy (R96, R151, R152)

011 and 012 make their tests and begin the copy; each word is a step of its own, between which the multiplexer, the MCU
and every other agent may move (R96, R498). -/

/-- One word from LCM to SCM. -/
def copyToScm (s : State) (lcmRel : BitVec 19) (scmRel : Word18) : State :=
  let l := lcmAbs s lcmRel
  let v := lcmValue s l
  scmStore (lcmDetect s l) (scmAbs s scmRel) v

/-- One word from SCM to LCM. -/
def copyToLcm (s : State) (lcmRel : BitVec 19) (scmRel : Word18) : State :=
  let a := scmAbs s scmRel
  let v := scmValue s 0 a
  lcmPut (scmDetect s a) (lcmAbs s lcmRel) v

/-- The next word of the copy `c`, in ascending address order (R96). -/
def copyStep (s : State) (c : CopyRun) : State :=
  let t := if c.toScm then copyToScm s c.lcm c.scm else copyToLcm s c.lcm c.scm
  { t with cpu := { t.cpu with
      phase := .copying { c with lcm := c.lcm + 1, scm := c.scm + 1, left := c.left - 1 } } }

/-- The count as an 18-bit positive integer: oc_add_18(K, (Bj)). -/
def blockCount (s : State) (j : Reg) (K : Word18) : Nat := (ocAdd K (getB s j)).toNat

/-- The LCM range test (R92). -/
def lcmBlockOut (s : State) (n : Nat) : Bool := decide (s.cpu.fll.toNat < n + ((getX s 0).setWidth 19 : BitVec 19).toNat)

/-- The SCM range test (R92). -/
def scmBlockOut (s : State) (n : Nat) : Bool := decide (s.cpu.fls.toNat < n + (getA s 0).toNat)

/-- 011 and 012: both tests, then either their flags (slip 0) or the beginning of the copy of the count's low ten bits. -/
def blockCopy (s : State) (j : Reg) (K : Word18) (toScm : Bool) : State :=
  let n := blockCount s j K
  if n = 0 then s
  else if lcmBlockOut s n || scmBlockOut s n then
    let t := if lcmBlockOut s n then raiseNow s .lcmBlockRange else s
    if scmBlockOut s n then raiseNow t .scmBlockRange else t
  else { s with cpu := { s.cpu with phase := .copying ⟨toScm, (getX s 0).setWidth 19, getA s 0, n % 1024⟩ } }

/-! ### Exchange exit (R154) -/

/-- Both forms of 013: every Interrupt Lockout is released, and the exchange jump, which stores P + 1, begins. It begins at
once: the Breakpoint of R432 is not set first (DESIGN CHOICE, assumption 38). -/
def exchangeExit (s : State) (a : ScmAddr) : State := exchangeJump (releaseLockouts s) a (nextWord s) .exitInstruction

/-! ### LCM single words (R157, R158) -/

/-- The read is made in range or not. -/
def readLcm (s : State) (j : Reg) (r : BitVec 19) : State :=
  let t := if r < s.cpu.fll then s else raiseLate s .lcmDirectRange
  lcmDetect (setX t j (lcmValue s (lcmAbs s r))) (lcmAbs s r)

/-- Out of range the flag is set and nothing is written. -/
def writeLcm (s : State) (j : Reg) (r : BitVec 19) : State :=
  if r < s.cpu.fll then lcmPut s (lcmAbs s r) (getX s j) else raiseLate s .lcmDirectRange

/-! ### Channels (R153, R159 to R162, R491) -/

/-- Whether 0160 or 0170 acts: Monitor Mode, and an existing channel other than 0. -/
def resetActs (s : State) (c : Unit16) : Bool := flag s .monitorMode && channelPresent s c

/-- Remember an effective reset for the next instruction (R491). -/
def didReset (s : State) (k : ResetKind) : State := { s with cpu := { s.cpu with didReset := some k } }

/-- What a buffer address reads as: the offset, or with STATUS_ABSOLUTE the absolute address (R46). -/
def addrStatus (s : State) (b : Buffer) (a : BitVec 8) : Word18 :=
  if s.cfg.statusAbsolute then BitVec.ofNat 18 (b.first + a.toNat) else a.setWidth 18

/-- The word that 016 reads. -/
def inputStatus (s : State) (c : Unit16) : Word18 :=
  if s.cpu.afterReset = some .input then low (Config.draw s.tick .statusAfterReset)
  else if c = 0 then BitVec.ofBool s.rtcFlag ++ s.clk
  else if channelPresent s c then addrStatus s s.cfg.inBuf[c] s.mux[c].inp.bufAddr
  else 0o400000

/-- The word that 017 reads. -/
def outputStatus (s : State) (c : Unit16) : Word18 :=
  if s.cpu.afterReset = some .output then low (Config.draw s.tick .statusAfterReset)
  else if channelPresent s c then addrStatus s s.cfg.outBuf[c] s.mux[c].out.bufAddr
  else 0

/-! ### The instructions -/

/-- 00: Program Range is set and the error exit is taken at once; the stored P is P + 1 (40 R150). -/
def execEs00 (s : State) : Outcome :=
  .next (errorExit (setFlag s .programRange) (nextWord s))

/-- 011: block copy of (Bj) + K words from LCM to SCM (40 R151). -/
def execRl011 (j : Reg) (K : Word18) (s : State) : Outcome :=
  .next (blockCopy s j K true)

/-- 012: block copy of (Bj) + K words from SCM to LCM (40 R152). -/
def execWl012 (j : Reg) (K : Word18) (s : State) : Outcome :=
  .next (blockCopy s j K false)

/-- 01300: exchange exit to (NEA) (40 R154, R155). -/
def execMj013Nea (s : State) : Outcome :=
  .next (exchangeExit s s.cpu.nea)

/-- 013jK: exchange exit to (Bj) + K + (RAS) (40 R154, R156). -/
def execMj013Bk (j : Reg) (K : Word18) (s : State) : Outcome :=
  .next (exchangeExit s (scmAbs s (ocAdd (getB s j) K)))

/-- 014: read LCM at (Xk) to Xj (40 R157). -/
def execRx014 (j : Reg) (k : Reg) (s : State) : Outcome :=
  .next (readLcm s j ((getX s k).setWidth 19))

/-- 015: write (Xj) into LCM at (Xk) (40 R158). -/
def execWx015 (j : Reg) (k : Reg) (s : State) : Outcome :=
  .next (writeLcm s j ((getX s k).setWidth 19))

/-- 0160: reset input channel (Bk) buffer; a Pass outside Monitor Mode and for channel 0 or an absent channel (40 R153, R159). -/
def execRi0160 (k : Reg) (s : State) : Outcome :=
  .next (if resetActs s (channelOf s k) then didReset (resetInput s (channelOf s k)) .input else s)

/-- 016: read input channel (Bk) status, or the clock, to Bj (40 R153, R160). -/
def execIb016 (j : Reg) (k : Reg) (s : State) : Outcome :=
  .next (setB s j (inputStatus s (channelOf s k)))

/-- 0170: reset output channel (Bk) buffer and start a record; a Pass as 0160 (40 R153, R161). -/
def execRo0170 (k : Reg) (s : State) : Outcome :=
  .next (if resetActs s (channelOf s k) then didReset (resetOutput s (channelOf s k)) .output else s)

/-- 017: read output channel (Bk) status to Bj (40 R153, R162). -/
def execOb017 (j : Reg) (k : Reg) (s : State) : Outcome :=
  .next (setB s j (outputStatus s (channelOf s k)))

end Sys2Proof.Machine
end

