-- ==== Sys2Proof/WellFormed.lean ====
section
/-!
DEFINITION. Which terms of `Instr` are instructions: the read-status forms 016 and 017 have j not 0, since j = 0 is
the reset form (30_encoding.md R127). Every other field value is admitted (R128, R129, R144).
-/

namespace Sys2Proof

/-- The checks of 30_encoding.md R127. -/
def Instr.wf : Instr → Bool
  | .ib016 j _ => decide (j ≠ 0)
  | .ob017 j _ => decide (j ≠ 0)
  | _ => true

/-- An instruction that the encoding can write. -/
abbrev Instr.WellFormed (i : Instr) : Prop := i.wf = true

/-- The Exit Mode under which the word of this instruction names it: 01300 needs the flag clear, 013jK needs it set
(R127); every other instruction is named in both modes. -/
def Instr.namedUnder : Instr → Bool → Bool
  | .mj013Nea, em => !em
  | .mj013Bk _ _, em => em
  | _, _ => true

end Sys2Proof
end

