-- ==== Sys2Proof/Decode.lean ====
section
/-!
DEFINITION. Decoding and encoding, from the encoding tables of 30_encoding.md R120 to R129 (CPU) and R140 to R144
(PPU). Every 15-bit and 30-bit pattern and every PPU pattern is a defined instruction (R129, R144); what the decoder
refuses, by name, is a word that is too wide, a missing second PPU word, or a word too many.
-/

namespace Sys2Proof

/-! ### The fields of a parcel and of a PPU word -/

/-- The two digits g h of a parcel, bits 14 to 9 (R122). -/
def codeGH (p : Parcel) : Nat := p.toNat / 512

/-- Designator i, bits 8 to 6 (R122). -/
def desI (p : Parcel) : Reg := ⟨p.toNat / 64 % 8, Nat.mod_lt _ (by decide)⟩

/-- Designator j, bits 5 to 3 (R122). -/
def desJ (p : Parcel) : Reg := ⟨p.toNat / 8 % 8, Nat.mod_lt _ (by decide)⟩

/-- Designator k, bits 2 to 0 (R122). -/
def desK (p : Parcel) : Reg := ⟨p.toNat % 8, Nat.mod_lt _ (by decide)⟩

/-- The 6-bit count jk, bits 5 to 0 (R122). -/
def desJK (p : Parcel) : BitVec 6 := BitVec.ofNat 6 (p.toNat % 64)

/-- The 18-bit K of a 30-bit instruction: K[17:15] stand in the k position of the first parcel, K[14:0] are the
second parcel (R123). -/
def constK (p q : Parcel) : Word18 := BitVec.ofNat 18 (p.toNat % 8 * 32768 + q.toNat)

/-- The operation code f of a PPU word, bits 11 to 6 (R140). -/
def codeF (w : Word12) : Nat := w.toNat / 64

/-- The d of a PPU word, bits 5 to 0 (R140). -/
def fieldD (w : Word12) : BitVec 6 := BitVec.ofNat 6 (w.toNat % 64)

/-! ### Lengths -/

/-- Whether a CPU parcel begins a 30-bit instruction (R125); for 013 the form is chosen by Exit Mode. -/
def isLong (exitMode : Bool) (p : Parcel) : Bool :=
  match codeGH p with
  | 1 =>
    match (desI p).val with
    | 0 => true
    | 1 => true
    | 2 => true
    | 3 => exitMode
    | _ => false
  | 2 => true
  | 3 => true
  | 4 => true
  | 5 => true
  | 6 => true
  | 7 => true
  | 0o50 => true
  | 0o51 => true
  | 0o52 => true
  | 0o60 => true
  | 0o61 => true
  | 0o62 => true
  | 0o70 => true
  | 0o71 => true
  | 0o72 => true
  | _ => false

/-- Whether a PPU word begins a 24-bit instruction: f is 01, 02, 20 to 23, 50 to 57, 60 to 67, 71 or 73 (R141). -/
def isLongPpu (w : Word12) : Bool :=
  let f := codeF w
  f == 1 || f == 2 || (0o20 ≤ f && f ≤ 0o23) || (0o50 ≤ f && f ≤ 0o67) || f == 0o71 || f == 0o73

/-! ### Decoding -/

/-- The CPU instruction whose first parcel is `p` and whose second is `q` (zeros at parcel 3, R124), under the
Exit Mode flag (R126, R127). -/
def decodeCpu (exitMode : Bool) (p q : Parcel) : Instr :=
  match codeGH p with
  | 0 => .es00
  | 1 =>
    match (desI p).val with
    | 0 => .rj010 (constK p q)
    | 1 => .rl011 (desJ p) (constK p q)
    | 2 => .wl012 (desJ p) (constK p q)
    | 3 => if exitMode then .mj013Bk (desJ p) (constK p q) else .mj013Nea
    | 4 => .rx014 (desJ p) (desK p)
    | 5 => .wx015 (desJ p) (desK p)
    | 6 => if (desJ p).val = 0 then .ri0160 (desK p) else .ib016 (desJ p) (desK p)
    | _ => if (desJ p).val = 0 then .ro0170 (desK p) else .ob017 (desJ p) (desK p)
  | 0o2 => .jp02 (desI p) (constK p q)
  | 3 =>
    match (desI p).val with
    | 0 => .zr030 (desJ p) (constK p q)
    | 1 => .nz031 (desJ p) (constK p q)
    | 2 => .pl032 (desJ p) (constK p q)
    | 3 => .ng033 (desJ p) (constK p q)
    | 4 => .ir034 (desJ p) (constK p q)
    | 5 => .or035 (desJ p) (constK p q)
    | 6 => .df036 (desJ p) (constK p q)
    | _ => .id037 (desJ p) (constK p q)
  | 0o4 => .eq04 (desI p) (desJ p) (constK p q)
  | 0o5 => .ne05 (desI p) (desJ p) (constK p q)
  | 0o6 => .ge06 (desI p) (desJ p) (constK p q)
  | 0o7 => .lt07 (desI p) (desJ p) (constK p q)
  | 0o10 => .bx10 (desI p) (desJ p)
  | 0o11 => .bx11 (desI p) (desJ p) (desK p)
  | 0o12 => .bx12 (desI p) (desJ p) (desK p)
  | 0o13 => .bx13 (desI p) (desJ p) (desK p)
  | 0o14 => .bx14 (desI p) (desK p)
  | 0o15 => .bx15 (desI p) (desJ p) (desK p)
  | 0o16 => .bx16 (desI p) (desJ p) (desK p)
  | 0o17 => .bx17 (desI p) (desJ p) (desK p)
  | 0o20 => .lx20 (desI p) (desJK p)
  | 0o21 => .ax21 (desI p) (desJK p)
  | 0o22 => .lx22 (desI p) (desJ p) (desK p)
  | 0o23 => .ax23 (desI p) (desJ p) (desK p)
  | 0o24 => .nx24 (desI p) (desJ p) (desK p)
  | 0o25 => .zx25 (desI p) (desJ p) (desK p)
  | 0o26 => .ux26 (desI p) (desJ p) (desK p)
  | 0o27 => .px27 (desI p) (desJ p) (desK p)
  | 0o30 => .fx30 (desI p) (desJ p) (desK p)
  | 0o31 => .fx31 (desI p) (desJ p) (desK p)
  | 0o32 => .dx32 (desI p) (desJ p) (desK p)
  | 0o33 => .dx33 (desI p) (desJ p) (desK p)
  | 0o34 => .rx34 (desI p) (desJ p) (desK p)
  | 0o35 => .rx35 (desI p) (desJ p) (desK p)
  | 0o36 => .ix36 (desI p) (desJ p) (desK p)
  | 0o37 => .ix37 (desI p) (desJ p) (desK p)
  | 0o40 => .fx40 (desI p) (desJ p) (desK p)
  | 0o41 => .rx41 (desI p) (desJ p) (desK p)
  | 0o42 => .dx42 (desI p) (desJ p) (desK p)
  | 0o43 => .mx43 (desI p) (desJK p)
  | 0o44 => .fx44 (desI p) (desJ p) (desK p)
  | 0o45 => .rx45 (desI p) (desJ p) (desK p)
  | 0o46 => .no46
  | 0o47 => .cx47 (desI p) (desK p)
  | 0o50 => .sa50 (desI p) (desJ p) (constK p q)
  | 0o51 => .sa51 (desI p) (desJ p) (constK p q)
  | 0o52 => .sa52 (desI p) (desJ p) (constK p q)
  | 0o53 => .sa53 (desI p) (desJ p) (desK p)
  | 0o54 => .sa54 (desI p) (desJ p) (desK p)
  | 0o55 => .sa55 (desI p) (desJ p) (desK p)
  | 0o56 => .sa56 (desI p) (desJ p) (desK p)
  | 0o57 => .sa57 (desI p) (desJ p) (desK p)
  | 0o60 => .sb60 (desI p) (desJ p) (constK p q)
  | 0o61 => .sb61 (desI p) (desJ p) (constK p q)
  | 0o62 => .sb62 (desI p) (desJ p) (constK p q)
  | 0o63 => .sb63 (desI p) (desJ p) (desK p)
  | 0o64 => .sb64 (desI p) (desJ p) (desK p)
  | 0o65 => .sb65 (desI p) (desJ p) (desK p)
  | 0o66 => .sb66 (desI p) (desJ p) (desK p)
  | 0o67 => .sb67 (desI p) (desJ p) (desK p)
  | 0o70 => .sx70 (desI p) (desJ p) (constK p q)
  | 0o71 => .sx71 (desI p) (desJ p) (constK p q)
  | 0o72 => .sx72 (desI p) (desJ p) (constK p q)
  | 0o73 => .sx73 (desI p) (desJ p) (desK p)
  | 0o74 => .sx74 (desI p) (desJ p) (desK p)
  | 0o75 => .sx75 (desI p) (desJ p) (desK p)
  | 0o76 => .sx76 (desI p) (desJ p) (desK p)
  | _ => .sx77 (desI p) (desJ p) (desK p)

/-- The PPU instruction whose word is `w` and whose second word, for a 24-bit code, is `m` (R141). -/
def decodePpu (w m : Word12) : Instr :=
  match codeF w with
  | 0 => .esn00
  | 0o1 => .ljm01 (fieldD w) m
  | 0o2 => .rjm02 (fieldD w) m
  | 0o3 => .ujn03 (fieldD w)
  | 0o4 => .zjn04 (fieldD w)
  | 0o5 => .njn05 (fieldD w)
  | 0o6 => .pjn06 (fieldD w)
  | 0o7 => .mjn07 (fieldD w)
  | 0o10 => .shn10 (fieldD w)
  | 0o11 => .lmn11 (fieldD w)
  | 0o12 => .lpn12 (fieldD w)
  | 0o13 => .scn13 (fieldD w)
  | 0o14 => .ldn14 (fieldD w)
  | 0o15 => .lcn15 (fieldD w)
  | 0o16 => .adn16 (fieldD w)
  | 0o17 => .sbn17 (fieldD w)
  | 0o20 => .ldc20 (fieldD w) m
  | 0o21 => .adc21 (fieldD w) m
  | 0o22 => .lpc22 (fieldD w) m
  | 0o23 => .lmc23 (fieldD w) m
  | 0o24 => .psn24
  | 0o25 => .pass25
  | 0o26 => .pass26
  | 0o27 => .pass27
  | 0o30 => .ldd30 (fieldD w)
  | 0o31 => .add31 (fieldD w)
  | 0o32 => .sbd32 (fieldD w)
  | 0o33 => .lmd33 (fieldD w)
  | 0o34 => .std34 (fieldD w)
  | 0o35 => .rad35 (fieldD w)
  | 0o36 => .aod36 (fieldD w)
  | 0o37 => .sod37 (fieldD w)
  | 0o40 => .ldi40 (fieldD w)
  | 0o41 => .adi41 (fieldD w)
  | 0o42 => .sbi42 (fieldD w)
  | 0o43 => .lmi43 (fieldD w)
  | 0o44 => .sti44 (fieldD w)
  | 0o45 => .rai45 (fieldD w)
  | 0o46 => .aoi46 (fieldD w)
  | 0o47 => .soi47 (fieldD w)
  | 0o50 => .ldm50 (fieldD w) m
  | 0o51 => .adm51 (fieldD w) m
  | 0o52 => .sbm52 (fieldD w) m
  | 0o53 => .lmm53 (fieldD w) m
  | 0o54 => .stm54 (fieldD w) m
  | 0o55 => .ram55 (fieldD w) m
  | 0o56 => .aom56 (fieldD w) m
  | 0o57 => .som57 (fieldD w) m
  | 0o60 => .fim60 (fieldD w) m
  | 0o61 => .eim61 (fieldD w) m
  | 0o62 => .irm62 (fieldD w) m
  | 0o63 => .nim63 (fieldD w) m
  | 0o64 => .fom64 (fieldD w) m
  | 0o65 => .eom65 (fieldD w) m
  | 0o66 => .orm66 (fieldD w) m
  | 0o67 => .nom67 (fieldD w) m
  | 0o70 => .ian70 (fieldD w)
  | 0o71 => .iam71 (fieldD w) m
  | 0o72 => .oan72 (fieldD w)
  | 0o73 => .oam73 (fieldD w) m
  | 0o74 => .rfn74 (fieldD w)
  | 0o75 => .pass75
  | 0o76 => .pass76
  | _ => .esn77

/-- An instruction as it stands in memory: its first word, and its second where it has one. -/
inductive Encoded
  /-- a CPU parcel, and the next one for a 30-bit instruction (none also stands for parcel 3, R124) -/
  | cpu (p : Parcel) (q : Option Parcel)
  /-- a PPU word, and the next one for a 24-bit instruction -/
  | ppu (w : Word12) (m : Option Word12)
deriving DecidableEq, Repr

/-- Why a sequence of words is no instruction. -/
inductive DecodeError
  /-- no word at all -/
  | noWord
  /-- a number that does not fit the word -/
  | wordTooWide
  /-- a 24-bit PPU instruction without its m word -/
  | missingSecondWord
  /-- a word after the end of the instruction -/
  | wordTooMany
deriving DecidableEq, Repr

/-- Decode an instruction as it stands in memory. -/
def decode (exitMode : Bool) : Encoded → Except DecodeError Instr
  | .cpu p none => .ok (decodeCpu exitMode p 0)
  | .cpu p (some q) => if isLong exitMode p then .ok (decodeCpu exitMode p q) else .error .wordTooMany
  | .ppu w none => if isLongPpu w then .error .missingSecondWord else .ok (decodePpu w 0)
  | .ppu w (some m) => if isLongPpu w then .ok (decodePpu w m) else .error .wordTooMany

/-- Decode a list of numbers as CPU parcels (`cpu`) or PPU words: total on any numbers. -/
def decodeWords (cpu exitMode : Bool) : List Nat → Except DecodeError Instr
  | [] => .error .noWord
  | [w] =>
    if w < (if cpu then 32768 else 4096) then
      decode exitMode (if cpu then .cpu (BitVec.ofNat 15 w) none else .ppu (BitVec.ofNat 12 w) none)
    else .error .wordTooWide
  | [w, v] =>
    if w < (if cpu then 32768 else 4096) ∧ v < (if cpu then 32768 else 4096) then
      decode exitMode (if cpu then .cpu (BitVec.ofNat 15 w) (some (BitVec.ofNat 15 v))
        else .ppu (BitVec.ofNat 12 w) (some (BitVec.ofNat 12 v)))
    else .error .wordTooWide
  | _ => .error .wordTooMany

/-! ### Encoding -/

/-- A 15-bit parcel from its code and designators (R122). -/
def parcel15 (gh : Nat) (i j k : Reg) : Parcel := BitVec.ofNat 15 (gh * 512 + i.val * 64 + j.val * 8 + k.val)

/-- The 15-bit instruction with code gh. -/
def enc15 (gh : Nat) (i j k : Reg) : Encoded := .cpu (parcel15 gh i j k) none

/-- The 15-bit instruction with code gh and the 6-bit count jk. -/
def encJK (gh : Nat) (i : Reg) (jk : BitVec 6) : Encoded :=
  .cpu (BitVec.ofNat 15 (gh * 512 + i.val * 64 + jk.toNat)) none

/-- The 30-bit instruction with code gh (R123). -/
def enc30 (gh : Nat) (i j : Reg) (K : Word18) : Encoded :=
  .cpu (BitVec.ofNat 15 (gh * 512 + i.val * 64 + j.val * 8 + K.toNat / 32768)) (some (BitVec.ofNat 15 (K.toNat % 32768)))

/-- The 12-bit PPU instruction (R140). -/
def enc12 (f : Nat) (d : BitVec 6) : Encoded := .ppu (BitVec.ofNat 12 (f * 64 + d.toNat)) none

/-- The 24-bit PPU instruction (R140). -/
def enc24 (f : Nat) (d : BitVec 6) (m : Word12) : Encoded := .ppu (BitVec.ofNat 12 (f * 64 + d.toNat)) (some m)

/-- The words of an instruction; designators that it does not use are zeros (R128). -/
def encode : Instr → Encoded
  | .es00 => enc15 0o0 0 0 0
  | .rj010 K => enc30 0o1 0 0 K
  | .rl011 j K => enc30 0o1 1 j K
  | .wl012 j K => enc30 0o1 2 j K
  | .mj013Nea => enc15 0o1 3 0 0
  | .mj013Bk j K => enc30 0o1 3 j K
  | .rx014 j k => enc15 0o1 4 j k
  | .wx015 j k => enc15 0o1 5 j k
  | .ri0160 k => enc15 0o1 6 0 k
  | .ib016 j k => enc15 0o1 6 j k
  | .ro0170 k => enc15 0o1 7 0 k
  | .ob017 j k => enc15 0o1 7 j k
  | .jp02 i K => enc30 0o2 i 0 K
  | .zr030 j K => enc30 0o3 0 j K
  | .nz031 j K => enc30 0o3 1 j K
  | .pl032 j K => enc30 0o3 2 j K
  | .ng033 j K => enc30 0o3 3 j K
  | .ir034 j K => enc30 0o3 4 j K
  | .or035 j K => enc30 0o3 5 j K
  | .df036 j K => enc30 0o3 6 j K
  | .id037 j K => enc30 0o3 7 j K
  | .eq04 i j K => enc30 0o4 i j K
  | .ne05 i j K => enc30 0o5 i j K
  | .ge06 i j K => enc30 0o6 i j K
  | .lt07 i j K => enc30 0o7 i j K
  | .bx10 i j => enc15 0o10 i j 0
  | .bx11 i j k => enc15 0o11 i j k
  | .bx12 i j k => enc15 0o12 i j k
  | .bx13 i j k => enc15 0o13 i j k
  | .bx14 i k => enc15 0o14 i 0 k
  | .bx15 i j k => enc15 0o15 i j k
  | .bx16 i j k => enc15 0o16 i j k
  | .bx17 i j k => enc15 0o17 i j k
  | .lx20 i jk => encJK 0o20 i jk
  | .ax21 i jk => encJK 0o21 i jk
  | .lx22 i j k => enc15 0o22 i j k
  | .ax23 i j k => enc15 0o23 i j k
  | .nx24 i j k => enc15 0o24 i j k
  | .zx25 i j k => enc15 0o25 i j k
  | .ux26 i j k => enc15 0o26 i j k
  | .px27 i j k => enc15 0o27 i j k
  | .fx30 i j k => enc15 0o30 i j k
  | .fx31 i j k => enc15 0o31 i j k
  | .dx32 i j k => enc15 0o32 i j k
  | .dx33 i j k => enc15 0o33 i j k
  | .rx34 i j k => enc15 0o34 i j k
  | .rx35 i j k => enc15 0o35 i j k
  | .ix36 i j k => enc15 0o36 i j k
  | .ix37 i j k => enc15 0o37 i j k
  | .fx40 i j k => enc15 0o40 i j k
  | .rx41 i j k => enc15 0o41 i j k
  | .dx42 i j k => enc15 0o42 i j k
  | .mx43 i jk => encJK 0o43 i jk
  | .fx44 i j k => enc15 0o44 i j k
  | .rx45 i j k => enc15 0o45 i j k
  | .no46 => enc15 0o46 0 0 0
  | .cx47 i k => enc15 0o47 i 0 k
  | .sa50 i j K => enc30 0o50 i j K
  | .sa51 i j K => enc30 0o51 i j K
  | .sa52 i j K => enc30 0o52 i j K
  | .sa53 i j k => enc15 0o53 i j k
  | .sa54 i j k => enc15 0o54 i j k
  | .sa55 i j k => enc15 0o55 i j k
  | .sa56 i j k => enc15 0o56 i j k
  | .sa57 i j k => enc15 0o57 i j k
  | .sb60 i j K => enc30 0o60 i j K
  | .sb61 i j K => enc30 0o61 i j K
  | .sb62 i j K => enc30 0o62 i j K
  | .sb63 i j k => enc15 0o63 i j k
  | .sb64 i j k => enc15 0o64 i j k
  | .sb65 i j k => enc15 0o65 i j k
  | .sb66 i j k => enc15 0o66 i j k
  | .sb67 i j k => enc15 0o67 i j k
  | .sx70 i j K => enc30 0o70 i j K
  | .sx71 i j K => enc30 0o71 i j K
  | .sx72 i j K => enc30 0o72 i j K
  | .sx73 i j k => enc15 0o73 i j k
  | .sx74 i j k => enc15 0o74 i j k
  | .sx75 i j k => enc15 0o75 i j k
  | .sx76 i j k => enc15 0o76 i j k
  | .sx77 i j k => enc15 0o77 i j k
  | .esn00 => enc12 0o0 0
  | .ljm01 d m => enc24 0o1 d m
  | .rjm02 d m => enc24 0o2 d m
  | .ujn03 d => enc12 0o3 d
  | .zjn04 d => enc12 0o4 d
  | .njn05 d => enc12 0o5 d
  | .pjn06 d => enc12 0o6 d
  | .mjn07 d => enc12 0o7 d
  | .shn10 d => enc12 0o10 d
  | .lmn11 d => enc12 0o11 d
  | .lpn12 d => enc12 0o12 d
  | .scn13 d => enc12 0o13 d
  | .ldn14 d => enc12 0o14 d
  | .lcn15 d => enc12 0o15 d
  | .adn16 d => enc12 0o16 d
  | .sbn17 d => enc12 0o17 d
  | .ldc20 d m => enc24 0o20 d m
  | .adc21 d m => enc24 0o21 d m
  | .lpc22 d m => enc24 0o22 d m
  | .lmc23 d m => enc24 0o23 d m
  | .psn24 => enc12 0o24 0
  | .pass25 => enc12 0o25 0
  | .pass26 => enc12 0o26 0
  | .pass27 => enc12 0o27 0
  | .ldd30 d => enc12 0o30 d
  | .add31 d => enc12 0o31 d
  | .sbd32 d => enc12 0o32 d
  | .lmd33 d => enc12 0o33 d
  | .std34 d => enc12 0o34 d
  | .rad35 d => enc12 0o35 d
  | .aod36 d => enc12 0o36 d
  | .sod37 d => enc12 0o37 d
  | .ldi40 d => enc12 0o40 d
  | .adi41 d => enc12 0o41 d
  | .sbi42 d => enc12 0o42 d
  | .lmi43 d => enc12 0o43 d
  | .sti44 d => enc12 0o44 d
  | .rai45 d => enc12 0o45 d
  | .aoi46 d => enc12 0o46 d
  | .soi47 d => enc12 0o47 d
  | .ldm50 d m => enc24 0o50 d m
  | .adm51 d m => enc24 0o51 d m
  | .sbm52 d m => enc24 0o52 d m
  | .lmm53 d m => enc24 0o53 d m
  | .stm54 d m => enc24 0o54 d m
  | .ram55 d m => enc24 0o55 d m
  | .aom56 d m => enc24 0o56 d m
  | .som57 d m => enc24 0o57 d m
  | .fim60 d m => enc24 0o60 d m
  | .eim61 d m => enc24 0o61 d m
  | .irm62 d m => enc24 0o62 d m
  | .nim63 d m => enc24 0o63 d m
  | .fom64 d m => enc24 0o64 d m
  | .eom65 d m => enc24 0o65 d m
  | .orm66 d m => enc24 0o66 d m
  | .nom67 d m => enc24 0o67 d m
  | .ian70 d => enc12 0o70 d
  | .iam71 d m => enc24 0o71 d m
  | .oan72 d => enc12 0o72 d
  | .oam73 d m => enc24 0o73 d m
  | .rfn74 d => enc12 0o74 d
  | .pass75 => enc12 0o75 0
  | .pass76 => enc12 0o76 0
  | .esn77 => enc12 0o77 0

/-! ### The host's table words -/

/-- Whether a number below 2^16 is read as a CPU parcel: every number of 13 bits or more, and of the shorter ones
those that spell an Error Exit of all zeros or one of the 15-bit codes 013 to 017. The others are read as PPU words
(both instruction sets have rows this short; the log says so). -/
def tableWordIsParcel (w : Nat) : Bool :=
  decide (4096 ≤ w) || decide (w < 64) || (decide (0o1300 ≤ w) && decide (w < 0o2000))

/-- The instruction of a table row: the number has `nbits` bits, its first word in the highest ones (for 30-bit
rows the first parcel is bits 29 to 15, for 24-bit rows f is bits 23 to 18). -/
def decodeTableWord (nbits w : Nat) : Option Instr :=
  if 2 ^ nbits ≤ w then none
  else if nbits = 0 then none
  else if nbits ≤ 12 then (decodeWords false false [w]).toOption
  else if nbits ≤ 15 then (decodeWords true false [w]).toOption
  else if nbits ≤ 16 then (decodeWords (tableWordIsParcel w) false [w]).toOption
  else if nbits ≤ 24 then (decodeWords false false [w / 4096, w % 4096]).toOption
  else if nbits ≤ 32 then (decodeWords true true [w / 32768, w % 32768]).toOption
  else none

end Sys2Proof
end

