-- ==== Sys2Proof/Machine/Cables.lean ====
section
/-!
DEFINITION. The cables (10_state.md R60): who is at the other end, the delivery of pulses, the devices on unlinked
ends (46_ppu_io.md R397), and the sampling of a channel word by the MUX.
-/

namespace Sys2Proof.Machine

open Sys2Proof

/-! ### The MCU scanner (60_exceptions.md R452) -/

/-- The word last output on MCU channel 0: the control bits and SCANSEL (R453). -/
def mcuControl (s : State) : Word12 := s.ppus[0].outData[0]

/-- SCANSEL: bits 11 to 8 of that word. -/
def scanSel (s : State) : Unit16 := ⟨(mcuControl s).toNat / 256, by have := (mcuControl s).isLt; omega⟩

/-- The PPU that the scanner has selected: one whose channel 0 is on it. Where SCANSEL names a place on the scanner at
which no PPU is installed, MCU channel 7 is joined to that place all the same, whose PPU takes no step and so never
answers: DESIGN CHOICE, assumption 34. -/
def scanTarget (s : State) : Option Unit16 :=
  if scanSel s ≠ 0 && s.cfg.onScanner[scanSel s] then some (scanSel s) else none

/-! ### The MCU's control bits -/

/-- Control bit `n` of MCU output channel 0 (R453). -/
def mcuBit (s : State) (n : Nat) : Bool := (mcuControl s).getLsbD n

/-- Whether the dead start signal is up at PPU `u` (R470, R474). -/
def deadStartUp (s : State) (u : Unit16) : Bool :=
  if u = 0 then s.mcuSwitch else decide (scanTarget s = some u) && mcuBit s 2

/-! ### Ends (R60, PPU_TOPOLOGY) -/

/-- The transmitter linked to input side `c` of the multiplexer. -/
def muxSource (cfg : Config) (c : Unit16) : Option TxEnd := (cfg.links.find? (fun l => l.2 == .mux c)).map Prod.fst

/-- The receiver at the other end of a transmitter's cable. MCU channel 7 and the channel 0 of every PPU on the
scanner are joined by the scanner alone (R452). -/
def farRx (s : State) (t : TxEnd) : Option RxEnd :=
  match t with
  | .ppu u n =>
    if u = 0 ∧ n = 7 then (scanTarget s).map (fun v => .ppu v 0)
    else if u ≠ 0 ∧ n = 0 ∧ s.cfg.onScanner[u] = true then (if scanTarget s = some u then some (.ppu 0 7) else none)
    else (s.cfg.links.find? (fun l => l.1 == t)).map Prod.snd
  | .mux _ => (s.cfg.links.find? (fun l => l.1 == t)).map Prod.snd

/-- The transmitter at the other end of a receiver's cable. While SCANSEL does not select a PPU on the scanner, its
channel 0 cable has no transmitter and no device (`scannerRx`): no pulse comes over it, and its lines keep what
`inLines` holds, which a change of selection during a transfer makes free: DESIGN CHOICE, assumption 35. -/
def farTx (s : State) (r : RxEnd) : Option TxEnd :=
  match r with
  | .ppu u n =>
    if u = 0 ∧ n = 7 then (scanTarget s).map (fun v => .ppu v 0)
    else if u ≠ 0 ∧ n = 0 ∧ s.cfg.onScanner[u] = true then (if scanTarget s = some u then some (.ppu 0 7) else none)
    else (s.cfg.links.find? (fun l => l.2 == r)).map Prod.fst
  | .mux c => muxSource s.cfg c

/-- Whether a receiver is wired to the scanner, selected or not: no device drives it (R397, R452). -/
def scannerRx (s : State) : RxEnd → Bool
  | .ppu u n => decide (u = 0 ∧ n = 7) || (decide (u ≠ 0 ∧ n = 0) && s.cfg.onScanner[u])
  | .mux _ => false

/-- Whether a transmitter is wired to the scanner. -/
def scannerTx (s : State) : TxEnd → Bool
  | .ppu u n => decide (u = 0 ∧ n = 7) || (decide (u ≠ 0 ∧ n = 0) && s.cfg.onScanner[u])
  | .mux _ => false

/-- Change PPU `u`. -/
def updPpu (s : State) (u : Unit16) (f : Ppu → Ppu) : State := { s with ppus := s.ppus.set u (f s.ppus[u]) }

/-- A Resume Pulse at output cable `n`: both flags clear (R54). -/
def Ppu.answered (q : Ppu) (n : Cable) : Ppu := { q with outw := q.outw.set n false, outr := q.outr.set n false }

/-- The Resume level of a high-speed channel at output cable `n`: it stands in place of the Resume Pulse of a word, so the
Output Word flag clears; the Output Record flag waits for the Resume Pulse of its record (R109, R111). -/
def Ppu.wordTaken (q : Ppu) (n : Cable) : Ppu := { q with outw := q.outw.set n false }

/-- The lines that a transmitter drives. -/
def txLines (s : State) : TxEnd → Word12
  | .ppu u n => s.ppus[u].outData[n]
  | .mux c => s.mux[c].out.lines

/-- The data lines of a receiver: the far end's, or what a device has put there (R53, R397). -/
def rxLines (s : State) (r : RxEnd) : Word12 :=
  match farTx s r with
  | some t => txLines s t
  | none =>
    match r with
    | .ppu u n => s.ppus[u].inLines[n]
    | .mux c => s.mux[c].inp.lines

/-! ### Pulses -/

/-- The effect of a Word Pulse at a receiver (R380, R108); a PPU whose dead start signal is up loses it (R474). -/
def hitWord (s : State) : RxEnd → State
  | .ppu u n => if deadStartUp s u then s else updPpu s u (fun q => { q with inw := q.inw.set n true })
  | .mux c => setIn s c { s.mux[c].inp with wordIn := s.mux[c].inp.wordIn + 1 }

/-- The effect of a Record Pulse at a receiver (R380, R109); a PPU whose dead start signal is up loses it (R474). -/
def hitRecord (s : State) : RxEnd → State
  | .ppu u n => if deadStartUp s u then s else updPpu s u (fun q => { q with inr := q.inr.set n true })
  | .mux c => setIn s c { s.mux[c].inp with recIn := s.mux[c].inp.recIn + 1 }

/-- The effect of a Resume Pulse at a transmitter: a PPU's two output flags clear (R54); a MUX output side serves it. -/
def hitResume (s : State) : TxEnd → State
  | .ppu u n => updPpu s u (fun q => q.answered n)
  | .mux c => setOut s c { s.mux[c].out with resIn := s.mux[c].out.resIn + 1 }

/-- A Word Pulse in flight arrives. -/
def deliverWord (s : State) (t : TxEnd) : State :=
  let hit (s' : State) := match farRx s t with
    | some r => hitWord s' r
    | none => s'
  match t with
  | .ppu u n =>
    if s.ppus[u].sentW[n] = 0 then s
    else hit (updPpu s u (fun q => { q with sentW := q.sentW.set n (q.sentW[n] - 1) }))
  | .mux c =>
    if s.mux[c].out.sentW = 0 then s
    else hit (setOut s c { s.mux[c].out with sentW := s.mux[c].out.sentW - 1 })

/-- A Record Pulse in flight arrives. -/
def deliverRecord (s : State) (t : TxEnd) : State :=
  let hit (s' : State) := match farRx s t with
    | some r => hitRecord s' r
    | none => s'
  match t with
  | .ppu u n =>
    if s.ppus[u].sentR[n] = 0 then s
    else hit (updPpu s u (fun q => { q with sentR := q.sentR.set n (q.sentR[n] - 1) }))
  | .mux c =>
    if s.mux[c].out.sentR = 0 then s
    else hit (setOut s c { s.mux[c].out with sentR := s.mux[c].out.sentR - 1 })

/-- A Resume Pulse in flight arrives. -/
def deliverResume (s : State) (r : RxEnd) : State :=
  let hit (s' : State) := match farTx s r with
    | some t => hitResume s' t
    | none => s'
  match r with
  | .ppu u n =>
    if s.ppus[u].sentS[n] = 0 then s
    else hit (updPpu s u (fun q => { q with sentS := q.sentS.set n (q.sentS[n] - 1) }))
  | .mux c =>
    if s.mux[c].inp.sentS = 0 then s
    else hit (setIn s c { s.mux[c].inp with sentS := s.mux[c].inp.sentS - 1 })

/-! ### Devices on unlinked ends (R397, D34) -/

/-- Whether a receiver is one of the MCU's own connections: the status lines on its input channels 3 to 5 (R454), and
SCM data on channel 6, where the model has no read (R114). No pulse comes over them (R397; assumption 25). -/
def mcuConnection : RxEnd → Bool
  | .ppu u n => decide (u = 0 ∧ 3 ≤ n.val ∧ n.val ≤ 6)
  | .mux _ => false

/-- Whether a device is at the other end of a receiver's cable. -/
def deviceSends (s : State) (r : RxEnd) : Bool := (farTx s r).isNone && !scannerRx s r && !mcuConnection r

/-- Whether a device is at the other end of a transmitter's cable: on scanner output channel 16 octal that is the
Reference Voltage Scanner (R452). -/
def deviceAnswers (s : State) (t : TxEnd) : Bool :=
  (farRx s t).isNone && (!scannerTx s t || (t == .ppu 0 7 && scanSel s == 0o16))

/-- A device sets the data lines of a cable. -/
def envLines (s : State) (r : RxEnd) (v : Word12) : State :=
  if deviceSends s r then
    match r with
    | .ppu u n => updPpu s u (fun q => { q with inLines := q.inLines.set n v })
    | .mux c => setIn s c { s.mux[c].inp with lines := v }
  else s

/-- A device sends a Word Pulse. -/
def envWord (s : State) (r : RxEnd) : State := if deviceSends s r then hitWord s r else s

/-- A device sends a Record Pulse. -/
def envRecord (s : State) (r : RxEnd) : State := if deviceSends s r then hitRecord s r else s

/-- A device answers with a Resume Pulse. -/
def envResume (s : State) (t : TxEnd) : State := if deviceAnswers s t then hitResume s t else s

/-! ### MUX input agents -/

/-- Input side `c` samples the word that has arrived (R108, R111). -/
def muxSample (s : State) (c : Unit16) : State :=
  let m := s.mux[c].inp
  if m.canSample then setIn s c (m.sample s.cfg.highSpeed[c] (rxLines s (.mux c))) else s

/-- Input side `c` serves a Record Pulse (R109, R111). -/
def muxRecord (s : State) (c : Unit16) : State :=
  let m := s.mux[c].inp
  if m.canRecord then setIn s c m.record else s

/-- The PPUs after the Resume level of each high-speed input side that is up has cleared the Output Word flag of the PPU
that sends to it (R111). -/
def levelPpus (cfg : Config) (mux : Vector MuxChan 16) (ppus : Vector Ppu 16) : Vector Ppu 16 :=
  (List.finRange 16).foldl (fun v (c : Unit16) =>
    if c != 0 && cfg.muxPresent[c] && cfg.highSpeed[c] && mux[c].inp.levelUp then
      match muxSource cfg c with
      | some (.ppu u n) => v.set u (v[u].wordTaken n)
      | _ => v
    else v) ppus

/-- The Resume levels act: an Output Word flag on such a cable clears as soon as it is set while the level is up (R111). -/
def resumeLevels (s : State) : State := { s with ppus := levelPpus s.cfg s.mux s.ppus }

end Sys2Proof.Machine
end

