-- ==== Sys2Proof/Machine/Mcu.lean ====
section
/-!
DEFINITION. The MCU's special channels: the control bits of output channel 0 (60_exceptions.md R453), the dead start and
dead dump of a PPU (70_reset_and_hazards.md R474, R477), Clear I/O and the CPU dead start level (R472, R473), the status
input channels (R454), and a change of the scanner selection (R452, D35).
-/

namespace Sys2Proof.Machine

open Sys2Proof

/-- The registers and flags that a dead start forces (R63, R474); with the dump bit up too, f is 73 (R477, D36), and IOP is
the dump's. Where both bits then drop in one word, so that the dump bit is never up alone, the dump runs all the same:
DESIGN CHOICE, assumption 23. -/
def Ppu.deadStart (u : Ppu) (dump : Bool) : Ppu :=
  { u with
    a := 0o007777, p := 0, q := 0, x := 0, k := 1
    fd := if dump then 0o7300 else 0o7100
    iop := if dump then .outBlock 0 true else .inBlock 0 true true
    inw := Vector.replicate 8 false, inr := Vector.replicate 8 false
    outw := Vector.replicate 8 false, outr := Vector.replicate 8 false
    stopped := false }

/-- The instruction at P; none where its second word lies beyond 0o7777 under `stuck` (R303). -/
def Ppu.instr (u : Ppu) (wrap : PWrap) : Option Instr :=
  let w := u.read u.p
  if isLongPpu w then (nextAddr wrap u.p 1).map (fun a => decodePpu w (u.read a)) else some (decodePpu w 0)

/-- The address to which an instruction of `u` stores its one word: 02 and the stores and replaces. -/
def Ppu.storesAt (u : Ppu) : Instr → Option Word12
  | .rjm02 d m => some (addrIndexed u d m)
  | .std34 d | .rad35 d | .aod36 d | .sod37 d => some (addrDirect d)
  | .sti44 d | .rai45 d | .aoi46 d | .soi47 d => some (addrIndirect u d)
  | .stm54 d m | .ram55 d m | .aom56 d m | .som57 d m => some (addrIndexed u d m)
  | _ => none

/-- The address that `u` may be storing to between two of its steps: that of the instruction at P, or of a word step of 71
that a flag enables. -/
def Ppu.storing (u : Ppu) (wrap : PWrap) : Option Word12 :=
  if u.stopped then none
  else match u.iop with
    | .idle => (u.instr wrap).bind u.storesAt
    | .inBlock c first _ => if u.inw[c] || (!first && u.inr[c]) then some u.q else none
    | .outBlock _ _ => none

/-- An instruction cut short leaves the word it was storing to unspecified, `v` (R474). -/
def Ppu.cutShort (u : Ppu) (wrap : PWrap) (v : Word12) : Ppu :=
  match u.storing wrap with
  | some a => u.write a v
  | none => u

/-- The dead dump signal changes the 71 in f, set by the dead start, to 73 (R477). Where it rises after the load has already
taken words, the dump goes on from the Q and the A that the load has reached: the spec gives only the dump from Q = 0 with
A = 7777 (DESIGN CHOICE, assumption 23). -/
def Ppu.startDump (u : Ppu) : Ppu :=
  match u.iop with
  | .inBlock _ _ true => { u with iop := .outBlock 0 true, fd := 0o7300 }
  | _ => u

/-- The continuous Resume of PPU `u`: the output flags of every PPU that sends to it clear (R474). -/
def forcedResume (s : State) (u : Unit16) : State :=
  (List.finRange 8).foldl (fun t n =>
    match farTx t (.ppu u n) with
    | some (.ppu v m) => updPpu t v (fun q => q.answered m)
    | _ => t) s

/-- A dead start level at PPU `u`. The first time it finds the PPU anywhere, inside an instruction too; after that no
step is in progress and no flag set, so that it cuts nothing short. -/
def applyDeadStart (s : State) (u : Unit16) (dump : Bool) : State :=
  updPpu (forcedResume s u) u
    (fun q => (q.cutShort s.cfg.pWrap (low (Config.draw s.tick (.cutShort u)))).deadStart dump)

/-- The levels that act on the selected PPU: clear parity error, dead start, dead dump. -/
def applySelected (s : State) (u : Unit16) : State :=
  let s1 := if mcuBit s 0 then updPpu s u (fun q => { q with parErr := 0 }) else s
  if mcuBit s 2 then applyDeadStart s1 u (mcuBit s 1)
  else if mcuBit s 1 then updPpu s1 u Ppu.startDump
  else s1

/-- The CPU stopped by its dead start signal; SCM has no request of its any more. -/
def cpuStopped (s : State) : State := { cpuServed s with cpu := { s.cpu with phase := .deadStart } }

/-- The levels that act on the CPU section: clear parity error, Clear I/O, CPU dead start, which stops the CPU wherever
it stands, inside a block copy or an exchange sequence too (R473). -/
def applyCpuLevels (s : State) : State :=
  let s1 := if mcuBit s 3 then { s with scmLatch := ⟨0, 0⟩, lcmLatch := ⟨0, 0⟩ } else s
  let s2 := if mcuBit s 4 then clearIo s1 else s1
  if mcuBit s 5 then cpuStopped s2 else s2

/-- The levels that act on the MCU: clear its parity errors, the card reader's switch. -/
def applyMcuLevels (s : State) : State :=
  let s1 := if mcuBit s 6 then updPpu s 0 (fun q => { q with parErr := 0 }) else s
  if s.mcuSwitch then applyDeadStart s1 0 false else s1

/-- Every level acts at the end of every step, as long as it is up (R111, R453). -/
def settle (s : State) : State :=
  let s1 := match scanTarget s with
    | some u => applySelected s u
    | none => s
  resumeLevels (applyMcuLevels (applyCpuLevels s1))

/-! ### Status channels (R454) -/

/-- Whether a 70 on MCU channel `c` reads status lines and completes at once (D35). -/
def isStatusChannel (s : State) (c : Cable) : Bool :=
  c == 3 || c == 4 || c == 5 || (c == 7 && 0o16 ≤ (scanSel s).val)

/-- The assigned bits (a mask) of MCU status channel `c`, and their values. -/
def statusBits (s : State) (c : Cable) : Word12 × Word12 :=
  let sel := (scanSel s).val
  if c = 3 then
    let own : Word12 := (s.ppus[0].parErr.setWidth 12) <<< 6
    if sel = 0o16 then (0o1737, own ||| (s.scmLatch.addr >>> 12).setWidth 12)
    else if sel = 0o17 then (0o1777, own ||| ((s.lcmLatch.addr >>> 12).setWidth 6).setWidth 12)
    else match scanTarget s with
      | some u => (0o1737, own ||| s.ppus[u].parErr.setWidth 12 ||| (if s.ppus[u].stopped then 0o20 else 0))
      | none => (0o1700, own)
  else if c = 4 then
    (0o37, (s.lcmLatch.addr >>> 18).setWidth 12 ||| ((s.lcmLatch.sections.setWidth 12) <<< 1))
  else if c = 5 then (0o37, s.scmLatch.sections.setWidth 12)
  else if sel = 0o16 then (0o7777, s.scmLatch.addr.setWidth 12)
  else (0o7777, s.lcmLatch.addr.setWidth 12)

/-- The word that a 70 on MCU status channel `c` reads: unassigned bits are free. -/
def statusWord (s : State) (c : Cable) : Word12 :=
  let b := statusBits s c
  (b.2 &&& b.1) ||| ((low (Config.draw s.tick .mcuStatus) : Word12) &&& ~~~b.1)

/-! ### A change of selection (R452, D35) -/

/-- Whether the cable pair of PPU `q` on channel `n` is not idle at that end. -/
def Ppu.busy (q : Ppu) (n : Cable) : Bool :=
  q.outw[n] || q.outr[n] || q.inw[n] || q.inr[n] || decide (0 < q.sentW[n] + q.sentR[n] + q.sentS[n])

/-- Whether the scanner's cable pair is not idle: at the MCU's end, or at that of a PPU it joins. -/
def scanBusy (s : State) (us : List Unit16) : Bool := s.ppus[0].busy 7 || us.any (fun u => s.ppus[u].busy 0)

/-- A count of pulses in flight that may be lost. -/
def maybeLost (s : State) (item n : Nat) : Nat := if Config.drawBool s.tick (.garbled item) then 0 else n

/-- The cable contents become free at one end: its lines, and whether the pulses in flight still arrive. `item` is the
first of the five sites of this end. -/
def garbleEnd (s : State) (item : Nat) (u : Unit16) (n : Cable) : State :=
  updPpu s u (fun q => { q with
    outData := q.outData.set n (low (Config.draw s.tick (.garbled item)))
    inLines := q.inLines.set n (low (Config.draw s.tick (.garbled (item + 1))))
    sentW := q.sentW.set n (maybeLost s (item + 2) q.sentW[n])
    sentR := q.sentR.set n (maybeLost s (item + 3) q.sentR[n])
    sentS := q.sentS.set n (maybeLost s (item + 4) q.sentS[n]) })

/-- The cable contents become free at the MCU's end and at those of the PPUs `us`. -/
def garble (s : State) (us : List Unit16) : State :=
  us.foldl (fun t u => garbleEnd t (5 * (u.val + 1)) u 0) (garbleEnd s 0 0 7)

/-- After a word has gone out on a cable of the executing PPU: where that changed SCANSEL, from or to anything, during a
transfer, the cable contents become free. `old` is the state before the output. -/
def afterOutput (old s : State) : State :=
  let us := (scanTarget old).toList ++ (scanTarget s).toList
  if scanSel s ≠ scanSel old && scanBusy old us then garble s us else s

end Sys2Proof.Machine
end

