-- ==== Sys2Proof/Machine/PpuIo.lean ====
section
/-!
DEFINITION. PPU input and output: 60 to 67, 70 to 74, and the word steps of the block instructions (46_ppu_io.md).
-/

namespace Sys2Proof.Machine

open Sys2Proof

/-- The PPU after sampling input cable `c`: both flags clear, a Resume Pulse sent (R380). -/
def Ppu.sampled (u : Ppu) (c : Cable) : Ppu :=
  { u with inw := u.inw.set c false, inr := u.inr.set c false, sentS := u.sentS.set c (u.sentS[c] + 1) }

/-- The PPU after sending the word `w` on output cable `c`: the data lines, the flag, a Word Pulse (R380). -/
def Ppu.sending (u : Ppu) (c : Cable) (w : Word12) : Ppu :=
  { u with outData := u.outData.set c w, outw := u.outw.set c true, sentW := u.sentW.set c (u.sentW[c] + 1) }

/-- 70 (R390); on the MCU's status channels it reads the status lines at once (R454). A PPU that waits does not
change, and its P still names the 70 (R381). -/
def inputToA (s : State) (c : Cable) : Outcome :=
  let u := getPpu s
  if s.cur = 0 && isStatusChannel s c then ppuThen s { u with a := (statusWord s c).setWidth 18 } 1
  else if u.inw[c] then ppuThen s { u.sampled c with a := (rxLines s (.ppu s.cur c)).setWidth 18 } 1
  else .next s

/-- 72 (R392); a new word on MCU channel 0 can change the scanner selection (R452). -/
def outputFromA (s : State) (c : Cable) : Outcome :=
  let u := getPpu s
  if u.outw[c] then .next s
  else match nextAddr s.cfg.pWrap u.p 1 with
    | some p => .next (afterOutput s (setPpu s { u.sending c (u.a.setWidth 12) with p := p }))
    | none => .fault .ppuAddressStuck

/-- 74 (R394). -/
def sendRecord (s : State) (c : Cable) : Outcome :=
  let u := getPpu s
  ppuThen s { u with outr := u.outr.set c true, sentR := u.sentR.set c (u.sentR[c] + 1) } 1

/-- The entry step of 71 and 73 (R391, R393). -/
def blockEntry (s : State) (m : Word12) (iop : Iop) : Outcome :=
  let u := { getPpu s with q := m }
  if (getPpu s).a == 0o777777 then .refused .blockCountNegativeZero
  else if (getPpu s).a == 0 then ppuThen s u 2
  else .next (setPpu s { u with iop := iop })

/-- The end of a block: IOP idle, and P <- next(P, 2), or P <- 1 after a dead start load or a dead dump (R475, R477). -/
def blockEnd (s : State) (u : Ppu) (boot : Bool) : Outcome :=
  if boot then ppuJump s { u with iop := .idle } 1 else ppuThen s { u with iop := .idle } 2

/-- The word step of 71 (R391). -/
def inWordStep (s : State) (c : Cable) (first boot : Bool) : Outcome :=
  let u := getPpu s
  if !first && u.inr[c] then blockEnd s (u.write u.q (low (Config.draw s.tick .noise))) boot
  else if u.inw[c] then
    let t := { ((u.sampled c).write u.q (rxLines s (.ppu s.cur c))) with a := ocSub u.a 1, q := ocAdd u.q 1 }
    if t.a == 0 then blockEnd s t boot
    else .next (setPpu s { t with iop := .inBlock c false boot })
  else .next s

/-- The word step of 73 (R393). -/
def outWordStep (s : State) (c : Cable) (boot : Bool) : Outcome :=
  let u := getPpu s
  if u.outw[c] then .next s
  else
    let t := { u.sending c (u.read u.q) with a := ocSub u.a 1, q := ocAdd u.q 1 }
    let out :=
      if t.a == 0 then blockEnd s t boot
      else .next (setPpu s { t with iop := .outBlock c boot })
    match out with
    | .next s' => .next (afterOutput s s')
    | o => o

/-! ### The instructions -/

/-- 60: jump to m on input word flag of channel d (46 R382). -/
def execFim60 (d : BitVec 6) (m : Word12) (s : State) : Outcome :=
  ppuJumpIf s (getPpu s) ((getPpu s).inw[cableOf d]) m 2

/-- 61: jump to m on no input word flag of channel d (46 R383). -/
def execEim61 (d : BitVec 6) (m : Word12) (s : State) : Outcome :=
  ppuJumpIf s (getPpu s) (!(getPpu s).inw[cableOf d]) m 2

/-- 62: jump to m on input record flag of channel d (46 R384). -/
def execIrm62 (d : BitVec 6) (m : Word12) (s : State) : Outcome :=
  ppuJumpIf s (getPpu s) ((getPpu s).inr[cableOf d]) m 2

/-- 63: jump to m on no input record flag of channel d (46 R385). -/
def execNim63 (d : BitVec 6) (m : Word12) (s : State) : Outcome :=
  ppuJumpIf s (getPpu s) (!(getPpu s).inr[cableOf d]) m 2

/-- 64: jump to m on output word flag of channel d (46 R386). -/
def execFom64 (d : BitVec 6) (m : Word12) (s : State) : Outcome :=
  ppuJumpIf s (getPpu s) ((getPpu s).outw[cableOf d]) m 2

/-- 65: jump to m on no output word flag of channel d (46 R387). -/
def execEom65 (d : BitVec 6) (m : Word12) (s : State) : Outcome :=
  ppuJumpIf s (getPpu s) (!(getPpu s).outw[cableOf d]) m 2

/-- 66: jump to m on output record flag of channel d (46 R388). -/
def execOrm66 (d : BitVec 6) (m : Word12) (s : State) : Outcome :=
  ppuJumpIf s (getPpu s) ((getPpu s).outr[cableOf d]) m 2

/-- 67: jump to m on no output record flag of channel d (46 R389). -/
def execNom67 (d : BitVec 6) (m : Word12) (s : State) : Outcome :=
  ppuJumpIf s (getPpu s) (!(getPpu s).outr[cableOf d]) m 2

/-- 70: input to A from channel d; the PPU waits while the Input Word flag is clear (46 R390). -/
def execIan70 (d : BitVec 6) (s : State) : Outcome :=
  inputToA s (cableOf d)

/-- 71: entry step of the input of (A) words to m from channel d (46 R391). -/
def execIam71 (d : BitVec 6) (m : Word12) (s : State) : Outcome :=
  blockEntry s m (.inBlock (cableOf d) true false)

/-- 72: output from A on channel d; the PPU waits while the Output Word flag is set (46 R392). -/
def execOan72 (d : BitVec 6) (s : State) : Outcome :=
  outputFromA s (cableOf d)

/-- 73: entry step of the output of (A) words from m on channel d (46 R393). -/
def execOam73 (d : BitVec 6) (m : Word12) (s : State) : Outcome :=
  blockEntry s m (.outBlock (cableOf d) false)

/-- 74: send record flag on channel d (46 R394). -/
def execRfn74 (d : BitVec 6) (s : State) : Outcome :=
  sendRecord s (cableOf d)

end Sys2Proof.Machine
end

