-- ==== Sys2Proof/Machine/Fetch.lean ====
section
/-!
DEFINITION. Making an instruction word current (10_state.md R30), the instruction word stack (R27, 20_memory.md R97),
and the end of a word: error exits, interrupts, the next word (60_exceptions.md R414 to R418, R430 to R432, R445).
-/

namespace Sys2Proof.Machine

open Sys2Proof

/-! ### The instruction word stack -/

/-- New information enters at rank 12; the rank one information is discarded (R27). -/
def iwsPush (q : List (Word18 × Word60)) (w : Word18) (v : Word60) : List (Word18 × Word60) :=
  let r := q ++ [(w, v)]
  r.drop (r.length - 12)

/-- The words that the stack holds for address `w`. -/
def iwsFind (q : List (Word18 × Word60)) (w : Word18) : List Word60 :=
  (q.filter (fun e => e.1 == w)).map Prod.snd

/-- The word read from SCM for relative address `w` enters the stack. -/
def iwsLoad (s : State) (who : Nat) (w : Word18) : State :=
  let a := scmAbs s w
  let t := scmDetect s a
  { t with cpu := { t.cpu with iws := iwsPush s.cpu.iws w (scmValue s who a) } }

/-- Look-ahead: a word already in the stack is not read again. -/
def iwsAhead (s : State) (who : Nat) (w : Word18) : State :=
  if (iwsFind s.cpu.iws w).isEmpty then iwsLoad s who w else s

/-- What a fetch delivers from stack entries `old` when SCM now holds `now`: the common value where they agree, else
one of the old words, the new word, or, where duplicates are merged, their logical sum (R97, D13). -/
def staleValue (t : Nat) (old : List Word60) (now : Word60) : Word60 :=
  if old.all (· == now) then now
  else
    let merged := old.foldl (· ||| ·) now
    let choices := old ++ [now] ++ (if 2 ≤ old.length then [merged, old.foldl (· ||| ·) 0] else [])
    choices.getD ((Config.draw t .staleFetch).toNat % choices.length) now

/-- What SCM holds at `a` now, without a reference; free where the word does not exist. -/
def scmNow (s : State) (a : ScmAddr) : Word60 :=
  if scmExists s a then memRead s.scm a.toNat else Config.draw s.tick (.scmWord 4 a.toNat)

/-- The word that the fetch of relative address `w` delivers (R27, R97). -/
def fetchValue (s : State) (w : Word18) : Word60 :=
  let old := iwsFind s.cpu.iws w
  if old.isEmpty then scmValue s 1 (scmAbs s w)
  else staleValue s.tick old (scmNow s (scmAbs s w))

/-- The state after the fetch of `w`: on a miss `w` and the next word are read; the stack is filled two words ahead. -/
def fetchStack (s : State) (w : Word18) : State :=
  let t := if (iwsFind s.cpu.iws w).isEmpty then iwsLoad (iwsLoad s 1 w) 2 (w + 1) else iwsAhead s 2 (w + 1)
  iwsAhead t 3 (w + 2)

/-! ### Making a word current (R30) -/

/-- The tests on W = 0 and W >= FLS; each sets its flag, the exit being taken at once. -/
def testRange (s : State) (w : Word18) : State :=
  let t := if s.cpu.fls ≤ w then rangeNow s else s
  setFlagIf t (w == 0) .programRange

/-- The three address tests of R30. -/
def addressTests (s : State) (w : Word18) : State := setFlagIf (testRange s w) (w == s.cpu.bpa) .breakpoint

/-- Whether one of the three tests fires. -/
def addressFault (s : State) (w : Word18) : Bool := decide (s.cpu.fls ≤ w) || w == 0 || w == s.cpu.bpa

/-- CIW <- the word for W; PARCEL <- 0. -/
def loadWord (s : State) (w : Word18) : State :=
  let t := fetchStack s w
  { t with cpu := { t.cpu with
      p := w, ciw := fetchValue s w, parcel := 0, phase := .inWord, issued := 0, inc30 := 0, branched := false } }

/-- Whether the late case of R431 happens: the breakpoint flag takes effect only at the end of the word. -/
def lateBreak (s : State) (w : Word18) : Bool :=
  s.cpu.seqInc && w == s.cpu.bpa && !(decide (s.cpu.fls ≤ w) || w == 0) && Config.drawBool s.tick .lateBreakpoint

/-- Make the word at P current, or take the error exit that a test asks for (R30, R416, R418). `isNew` is the first
word of an interval, where flags that arrived set are causes too, and with them SCM Parity where the sequence, or a reference
of another agent since the load, has set it (DESIGN CHOICE, assumption 12). -/
def makeCurrent (s : State) (isNew : Bool) : State :=
  let w := s.cpu.p
  if lateBreak s w then
    let t := setFlag (loadWord s w) .breakpoint
    { t with cpu := { t.cpu with slip := some 0, seqInc := false } }
  else
    let t := addressTests s w
    if addressFault s w || (isNew && errorRequest t.cpu.psd) then errorExit t w
    else
      let u := loadWord s w
      { u with cpu := { u.cpu with seqInc := false } }

/-! ### The end of a word (R414) -/

/-- Whether a real-time request may be taken now (R445). -/
def rtcEnabled (s : State) : Bool :=
  match s.cfg.rtcMonitor with
  | .taken => true
  | .masked => !flag s .monitorMode
  | .either => !flag s .monitorMode || !Config.drawBool s.tick .rtcMasked

/-- The interrupt that is taken at this word end, if any: none, the real-time request, or an I/O request; the choice
among those pending and enabled is free, but for the channel priority of R443 (R414, D8). -/
def takenInterrupt (s : State) : Option (Option (Unit16 × Bool)) :=
  let rtc := s.rtcFlag && rtcEnabled s && Config.drawBool s.tick .takeRtc
  let io := if flag s .monitorMode then none else if Config.drawBool s.tick .takeIo then pendingIo s else none
  if rtc && (io.isNone || Config.drawBool s.tick .rtcFirst) then some none
  else io.map some

/-- Steps 2 to 4 of R414. -/
def wordEndInterrupts (s : State) (next : Word18) : State :=
  match takenInterrupt s with
  | some none => exchangeJump { s with rtcFlag := false } 0o20 next .realTime
  | some (some (c, input)) => acceptIo s c input next
  | none => { s with cpu := { s.cpu with p := next, phase := .fetch, flow := .seq } }

/-- Whether the next word is reached by sequencing from a word that consisted of two 30-bit Increment instructions, no
more and no less (R431). -/
def seqAfterInc (s : State) : Bool := s.cpu.issued == 2 && s.cpu.inc30 == 2 && s.cpu.flow == .seq

/-- The breakpoint on the word after a branch (R432). -/
def breakAfterBranch (s : State) : Bool := s.cpu.branched && nextWord s == s.cpu.bpa

/-- The error exits and interrupts at the end of a word whose successor is `next` (R414, R417, R432). -/
def endTests (s : State) (next : Word18) : State :=
  if breakAfterBranch s then errorExit (setFlag s .breakpoint) next
  else if errorRequest s.cpu.psd then
    match s.cpu.slip with
    | none => errorExit s next
    | some 0 => errorExit s next
    | some (n + 1) => wordEndInterrupts { s with cpu := { s.cpu with slip := some n } } next
  else wordEndInterrupts s next

/-- The end of a word (R414). -/
def endWord (s : State) (next : Word18) : State :=
  endTests { s with cpu := { s.cpu with seqInc := seqAfterInc s } } next

/-! ### Around an instruction -/

/-- Whether an instruction is a 30-bit Increment instruction (R431). -/
def isInc30 : Instr → Bool
  | .sa50 _ _ _ | .sa51 _ _ _ | .sa52 _ _ _ | .sb60 _ _ _ | .sb61 _ _ _ | .sb62 _ _ _
  | .sx70 _ _ _ | .sx71 _ _ _ | .sx72 _ _ _ => true
  | _ => false

/-- Whether an instruction is a branch instruction for R432. -/
def isBranch : Instr → Bool
  | .rj010 _ | .jp02 _ _ | .zr030 _ _ | .nz031 _ _ | .pl032 _ _ | .ng033 _ _ | .ir034 _ _ | .or035 _ _ | .df036 _ _
  | .id037 _ _ | .eq04 _ _ _ | .ne05 _ _ _ | .ge06 _ _ _ | .lt07 _ _ _ => true
  | _ => false

/-- What the issue of an instruction notes; what R491 remembers moves on by one. -/
def noteIssue (s : State) (i : Instr) : State :=
  { s with cpu := { s.cpu with
    flow := .seq
    afterReset := s.cpu.didReset
    didReset := none
    issued := s.cpu.issued + 1
    inc30 := s.cpu.inc30 + (if isInc30 i then 1 else 0)
    branched := s.cpu.branched || isBranch i } }

/-- The issue of an instruction: with Step Mode it sets Step (R430). -/
def issue (s : State) (i : Instr) : State :=
  if flag s .stepMode then raiseNow (noteIssue s i) .step else noteIssue s i

/-- The parcels of the instruction at PARCEL: its first and second, zeros past parcel 3 (R121, R124). -/
def currentParcels (s : State) : Parcel × Parcel :=
  let n := s.cpu.parcel.val
  (parcelOf s.cpu.ciw n, if n = 3 then 0 else parcelOf s.cpu.ciw (n + 1))

/-- The instruction at PARCEL (R121). -/
def currentInstr (s : State) : Instr :=
  decodeCpu (flag s .exitMode) (currentParcels s).1 (currentParcels s).2

/-- Its length in parcels (R125). -/
def currentLength (s : State) : Nat := if isLong (flag s .exitMode) (currentParcels s).1 then 2 else 1

/-- What follows an instruction of `len` parcels (R30): the next parcel, the end of the word, or nothing where the
instruction has begun a block copy or an exchange jump, which has steps of its own. An instruction that exits at once (00,
013, a 010 by its own test on K) does not pass through the end of its word: in a word V with an executed branch and
V + 1 = (BPA) it does not set Breakpoint. R30 and R413 (b) say that such an instruction ends the word, and R432 that
Breakpoint is set when the word has ended. Whether R432 means this end is left open (DESIGN CHOICE, assumption 38). -/
def finishInstr (s : State) (len : Nat) : State :=
  match s.cpu.phase, s.cpu.flow with
  | .copying _, _ => s
  | _, .exited => s
  | _, .jump t => endWord s t
  | _, .seq =>
    if h : s.cpu.parcel.val + len < 4 then { s with cpu := { s.cpu with parcel := ⟨s.cpu.parcel.val + len, h⟩ } }
    else endWord s (nextWord s)

end Sys2Proof.Machine
end

