-- ==== Sys2Proof/Machine/ScmOrder.lean ====
section
/-!
DEFINITION. The order of the references to SCM (20_memory.md R84, R93, R114): which request each agent has out, how SCM
receives them, and whether the CPU must wait for requests received before its own.
-/

namespace Sys2Proof.Machine

open Sys2Proof

/-! ### The CPU's request -/

/-- Whether the CPU is held by its dead start signal (R473). -/
def cpuHeld (s : State) : Bool := mcuBit s 5

/-- The request that an instruction makes. 50 to 57 with i not 0 ask for their reference, and 010 for its store, in range or
not, made or inhibited: DESIGN CHOICE, assumption 18. -/
def instrRequest : Instr → Option ScmRequest
  | .sa50 i _ _ | .sa51 i _ _ | .sa52 i _ _ | .sa53 i _ _ | .sa54 i _ _ | .sa55 i _ _ | .sa56 i _ _ | .sa57 i _ _ =>
    if i = 0 then none else some .increment
  | .rj010 _ => some .returnJump
  | _ => none

/-- Whether the fetch of relative address `w` reads SCM: the word or one of the two ahead is not in the stack (R27). -/
def fetchReads (s : State) (w : Word18) : Bool :=
  [w, w + 1, w + 2].any (fun v => (iwsFind s.cpu.iws v).isEmpty)

/-- The first request of a CPU turn that makes a word current: the fetch, or, where the stack holds the words, that of the
first instruction. -/
def wordRequest (s : State) (isNew : Bool) : Option ScmRequest :=
  let t := makeCurrent s isNew
  if t.cpu.phase = .inWord then
    if fetchReads s s.cpu.p then some .fetch else instrRequest (currentInstr t)
  else none

/-- The request for SCM with which the CPU's next turn begins, if any. What else that turn refers to follows it with nothing
between: assumption 18. -/
def cpuRequest (s : State) : Option ScmRequest :=
  match s.cpu.phase with
  | .deadStart => none
  | .newInterval => wordRequest s true
  | .fetch => wordRequest s false
  | .inWord => instrRequest (currentInstr s)
  | .copying c => if c.left = 0 then none else some .blockCopy
  | .exchanging x => if (List.finRange 16).any (fun w => !x.put[w]) then some .exchange else none

/-- Whether SCM has received a request of the CPU. -/
def cpuQueued (s : State) : Bool := s.scmQueue.any ScmRequest.ofCpu

/-- The CPU's request, if it has one that SCM has not received. -/
def cpuNew (s : State) : Option ScmRequest := if cpuHeld s || cpuQueued s then none else cpuRequest s

/-- SCM receives the CPU's request by itself, after all that it has received. -/
def cpuReceive (s : State) : State := { s with scmQueue := s.scmQueue ++ (cpuNew s).toList }

/-- Whether the CPU's turn needs SCM and SCM has received requests before the CPU's that it has not served. -/
def cpuMustWait (s : State) : Bool :=
  (s.scmQueue.takeWhile (fun r => !r.ofCpu)).any (requestOut s) && (cpuRequest s).isSome

/-! ### Simultaneous receipt -/

/-- Every side, in the order of priority: the lowest channel first, input before output (R84). -/
def sidesByPriority : List ScmRequest := (List.finRange 16).flatMap (fun c => [.mux c true, .mux c false])

/-- The Word Requests that are out and that SCM has not received. -/
def muxNew (s : State) : List ScmRequest := sidesByPriority.filter (fun r => requestOut s r && !s.scmQueue.contains r)

/-- The MCU's request, if it has one that SCM has not received: its references are made one after the other. -/
def mcuNew (s : State) : Option ScmRequest :=
  if s.scmQueue.any (fun r => r.rank == 4 && !r.ofMux) then none else s.mcuOut.head?.map (fun w => .mcu w.1 w.2)

/-- The requests of the I/O Multiplexer: the Word Requests, and, at the rank `n` that `mcu` names, the MCU's request, whose rank
among the channels R84 does not state (assumption 18). -/
def multiplexerNew (s : State) (mcu : Option Nat) : List ScmRequest :=
  match mcu, mcuNew s with
  | some n, some r => (muxNew s).take n ++ r :: (muxNew s).drop n
  | _, _ => muxNew s

/-- SCM receives the requests of the multiplexer; with them, if `cpu`, the CPU's, before or after them by its priority. When
the requests are received is the model's reading: assumption 18. -/
def scmReceive (s : State) (cpu : Bool) (mcu : Option Nat) : State :=
  let new := if cpu then (cpuNew s).toList else []
  { s with
    scmQueue := s.scmQueue ++ (new.filter (fun r => decide (r.rank < 4)) ++ multiplexerNew s mcu
      ++ new.filter (fun r => decide (4 < r.rank)))
    mcuOut := if mcu.isSome && (mcuNew s).isSome then s.mcuOut.tail else s.mcuOut }

/-! ### The MCU's reference (R114) -/

/-- The MCU asks for the write of an SCM word. -/
def mcuAsk (s : State) (a : ScmAddr) (v : Word60) : State := { s with mcuOut := s.mcuOut ++ [(a, v)] }

/-- SCM accepts the MCU's request, if that is the one it serves. -/
def mcuStore (s : State) : State :=
  match servedRequest s with
  | some (.mcu a v) => scmStore (scmServed s (.mcu a v)) a v
  | _ => s

end Sys2Proof.Machine
end

