-- ==== Sys2Proof/Machine/Cycle.lean ====
section
/-!
DEFINITION. What `step` calls besides `exec`: a PPU's instruction fetch (45_ppu_instructions.md R303), the events of the
agents that execute no instruction (10_state.md R20, R498), and placing a word where the next step fetches it.
-/

namespace Sys2Proof.Machine

open Sys2Proof

/-! ### A PPU's cycle -/

/-- Whether PPU `u` can take a step: installed, its dead start signal down, not stopped (R303, R474). -/
def ppuReady (s : State) (u : Unit16) : Bool :=
  decide (u.val < s.cfg.ppuCount) && !deadStartUp s u && !s.ppus[u].stopped

/-- The first word of the instruction at P. -/
def ppuWord (s : State) : Word12 := (getPpu s).read (getPpu s).p

/-- The instruction at the executing PPU's P, if any. -/
def ppuInstr (s : State) : Option Instr :=
  (getPpu s).instr s.cfg.pWrap

/-- The instruction word enters fd (R51). -/
def ppuBegin (s : State) : State := setPpu s { getPpu s with fd := ppuWord s }

/-! ### The CPU's cycle -/

/-- The CPU inside a block copy: the next word, or, when none is left, what follows the instruction (R96, R30). -/
def copyTurn (s : State) (c : CopyRun) : State :=
  if c.left = 0 then finishInstr { s with cpu := { s.cpu with phase := .inWord } } (currentLength s) else copyStep s c

/-! ### Other agents -/

/-- The clock agent's step (R445). -/
def clockTick (s : State) : State :=
  { s with clk := s.clk + 1, rtcFlag := s.rtcFlag || s.clk + 1 == 0 }

/-- A PPU's stack parity error (R455). The read that detects it delivers the stored word and the PPU goes on, since the
source describes the reporting register alone: DESIGN CHOICE, assumption 36. -/
def ppuParity (s : State) (u : Unit16) (banks : BitVec 4) : State :=
  updPpu s u (fun q => { q with parErr := q.parErr ||| banks })

/-- Do something to channel `c` if it exists (R9). -/
def onChannel (s : State) (c : Unit16) (f : State → Unit16 → State) : State := if channelPresent s c then f s c else s

/-- A MUX output side sees the continuous Resume of a PPU in dead start (R474). That it is an event, and that a Resume noted
and not served when the signal drops answers a later word, is the model's choice (assumption 23). -/
def levelResume (s : State) (c : Unit16) : State :=
  match farRx s (.mux c) with
  | some (.ppu u _) =>
    if deadStartUp s u && decide (s.mux[c].out.resIn = 0) then setOut s c { s.mux[c].out with resIn := 1 } else s
  | _ => s

/-- The effect of an event that executes no instruction. -/
def agentStep (s : State) : Event → State
  | .cpu => s
  | .ppu _ => s
  | .clock => clockTick s
  | .muxSample c => onChannel s c muxSample
  | .muxRecord c => onChannel s c muxRecord
  | .scmReceive cpu mcu => scmReceive s cpu mcu
  | .muxStore c => onChannel s c muxStore
  | .muxFetch c => onChannel s c muxFetch
  | .muxAhead c => onChannel s c muxAhead
  | .muxSend c => onChannel s c muxSend
  | .muxResume c => onChannel s c muxResume
  | .deliverWord t => deliverWord s t
  | .deliverRecord t => deliverRecord s t
  | .deliverResume r => deliverResume s r
  | .levelResume c => levelResume s c
  | .envLines r v => envLines s r v
  | .envWord r => envWord s r
  | .envRecord r => envRecord s r
  | .envResume t => envResume s t
  | .mcuWriteScm a v => mcuAsk s a v
  | .mcuStore => mcuStore s
  | .mcuSwitch up => { s with mcuSwitch := up }
  | .scmParity a sec => { s with scmBad := s.scmBad ++ [(a, sec)] }
  | .lcmParity a sec => { s with lcmBad := s.lcmBad ++ [(a, sec)] }
  | .ppuParity u banks => ppuParity s u banks

/-! ### Placing a word for the host -/

/-- The dead start and dead dump levels and the card reader's switch down, so that the next turn is not held. -/
def levelsDown (s : State) : State :=
  { updPpu s 0 (fun q => { q with outData := q.outData.set 0 (q.outData[0] &&& ~~~0o46) }) with mcuSwitch := false }

/-- A CPU instruction of the first parcel `p` and second `q` at parcel 0 of relative address 0o100, about to be made
current with the address tests passing; for 013 the Exit Mode flag as the form asks (`long`). -/
def placeCpu (s : State) (p q : Parcel) (long : Bool) : State :=
  let t := levelsDown s
  let modes := t.cpu.psd &&& modeMask
  let psd := if codeGH p = 1 ∧ (desI p).val = 3 then (if long then modes ||| 0o400000 else modes &&& ~~~0o400000) else modes
  { t with
    scm := memWrite t.scm 0o100 ((p.setWidth 60 <<< 45) ||| (q.setWidth 60 <<< 30))
    scmBad := []
    scmQueue := []
    sched := .cpu :: t.sched
    cpu := { t.cpu with p := 0o100, ras := 0, fls := 0o200000, bpa := 0, psd := psd, slip := none,
                        iws := [], phase := .fetch, seqInc := false } }

/-- A PPU instruction word `w` with the next word `m` at the P of the PPU that runs next. -/
def placePpu (s : State) (w m : Word12) : State :=
  let u : Unit16 := if s.cur.val < s.cfg.ppuCount then s.cur else 0
  let t := levelsDown s
  let f (q : Ppu) : Ppu :=
    let p : Word12 := if 0o7775 < q.p.toNat then 0 else q.p
    { (({ q with p := p }).write p w).write (p + 1) m with iop := .idle, stopped := false }
  { updPpu t u f with sched := .ppu u :: t.sched }

/-- Place the table word `w` of `nbits` bits where the next step fetches it, laid out as `decodeTableWord` reads it. -/
def placeWord (s : State) (nbits w : Nat) : State :=
  if nbits ≤ 12 then placePpu s (BitVec.ofNat 12 w) 0
  else if nbits ≤ 15 then placeCpu s (BitVec.ofNat 15 w) 0 false
  else if nbits ≤ 16 then
    if tableWordIsParcel w then placeCpu s (BitVec.ofNat 15 w) 0 false else placePpu s (BitVec.ofNat 12 w) 0
  else if nbits ≤ 24 then placePpu s (BitVec.ofNat 12 (w / 4096)) (BitVec.ofNat 12 w)
  else placeCpu s (BitVec.ofNat 15 (w / 32768)) (BitVec.ofNat 15 w) true

end Sys2Proof.Machine
end

