-- ==== Sys2Proof/Machine/Float.lean ====
section
/-!
DEFINITION. Floating point: the word (43_cpu_floating.md R220 to R222), the special results (R223), the three unit
algorithms (R225 to R227), and normalize, pack and unpack (42 R198, R199, R206, R207). Coefficients and accumulators are
natural numbers or integers, narrowed at the end.
-/

namespace Sys2Proof.Machine

open Sys2Proof

/-! ### The word -/

/-- Bits 59 to 48 (R222). -/
def fpTop (w : Word60) : Nat := w.toNat / 2 ^ 48

/-- `fp_exp11` (R220): the 11-bit ones complement exponent. -/
def fpExp11 (w : Word60) : BitVec 11 :=
  let f : BitVec 11 := (w >>> 48).setWidth 11
  (if w.msb then ~~~f else f) ^^^ 0o2000

/-- The exponent as an integer, -0o1777 to +0o1777. -/
def fpExp (w : Word60) : Int := ocVal (fpExp11 w)

/-- `fp_coef` (R220): the 48-bit magnitude. -/
def fpCoef (w : Word60) : Nat := (if w.msb then ~~~w else w).toNat % 2 ^ 48

/-- `fp_pack` (R221). -/
def fpPack (neg : Bool) (x : Int) (m : Nat) : Word60 :=
  let f : Nat := if 0 ≤ x then 1024 + x.toNat else 1023 - x.natAbs
  let p : Word60 := BitVec.ofNat 60 (f * 2 ^ 48 + m)
  if neg then ~~~p else p

/-- `norm` (R222): bit 47 differs from the sign. -/
def fpNorm (w : Word60) : Bool := w.msb != w.getLsbD 47

/-- The operand classes of R222. -/
inductive FpClass | ind | inf | zero | num
deriving DecidableEq, Repr

/-- `class(w)` (R222). -/
def fpClass (w : Word60) : FpClass :=
  let t := fpTop w
  if t = 0o1777 ∨ t = 0o6000 then .ind
  else if t = 0o3777 ∨ t = 0o4000 then .inf
  else if t = 0 ∨ t = 0o7777 then .zero
  else .num

/-! ### Special results (R223) -/

/-- A result word, and the flag to set. -/
abbrev FpResult := Word60 × Option PsdFlag

/-- +INF or -INF, with Overflow. -/
def fpInf (neg : Bool) : FpResult :=
  (if neg then 0o40007777777777777777#60 else 0o37770000000000000000#60, some .overflow)

/-- IND, with Indefinite. -/
def fpInd : FpResult := (0o17770000000000000000#60, some .indefinite)

/-- +0 or -0, with Underflow. -/
def fpZero (neg : Bool) : FpResult := (if neg then BitVec.allOnes 60 else 0, some .underflow)

/-- The ADD table; the SUBTRACT table is the same with the complement of (Xk). ZERO counts as W (R222). -/
def specialAdd (xj xk : Word60) : Option FpResult :=
  match fpClass xj, fpClass xk with
  | .ind, _ => some fpInd
  | _, .ind => some fpInd
  | .inf, .inf => if xj.msb = xk.msb then some (fpInf xj.msb) else some fpInd
  | .inf, _ => some (fpInf xj.msb)
  | _, .inf => some (fpInf xk.msb)
  | _, _ => none

/-- The MULTIPLY table. -/
def specialMul (xj xk : Word60) : Option FpResult :=
  let neg := xj.msb != xk.msb
  match fpClass xj, fpClass xk with
  | .ind, _ => some fpInd
  | _, .ind => some fpInd
  | .inf, .zero => some fpInd
  | .zero, .inf => some fpInd
  | .inf, _ => some (fpInf neg)
  | _, .inf => some (fpInf neg)
  | .zero, _ => some (fpZero neg)
  | _, .zero => some (fpZero neg)
  | .num, .num => none

/-- The DIVIDE table. -/
def specialDiv (xj xk : Word60) : Option FpResult :=
  let neg := xj.msb != xk.msb
  match fpClass xj, fpClass xk with
  | .ind, _ => some fpInd
  | _, .ind => some fpInd
  | .inf, .inf => some fpInd
  | .zero, .zero => some fpInd
  | .inf, _ => some (fpInf neg)
  | _, .inf => some (fpZero neg)
  | .zero, _ => some (fpZero neg)
  | _, .zero => some (fpInf neg)
  | .num, .num => none

/-! ### The Floating Add unit (R225) -/

/-- `fadd` for two ordinary operands; `k` is (Xk), already complemented for a subtraction. `xk` is (Xk) as it stands,
for the normalization test of the second round bit. -/
def faddNum (far : Bool) (xj xk k : Word60) (dp rnd : Bool) : FpResult :=
  let kLarger := decide (fpExp xj ≤ fpExp k)
  let a := if kLarger then k else xj
  let b := if kLarger then xj else k
  let sa := a.msb
  let d := (fpExp a - fpExp b).toNat
  let second := (fpNorm xj && fpNorm xk) || (a.msb != b.msb)
  let accA : Nat := fpCoef a * 2 ^ 48 + (if rnd then 2 ^ 47 else 0)
  let accB0 : Nat := fpCoef b * 2 ^ 48 + (if rnd && second then 2 ^ 47 else 0)
  let accB : Nat := if 128 ≤ d then 0 else accB0 / 2 ^ d
  let sb := if 128 ≤ d then false else b.msb
  let sum : Int := (if sa then -(accA : Int) else accA) + (if sb then -(accB : Int) else accB)
  let neg := if sum = 0 then sa && sb else decide (sum < 0)
  let ea := fpExp a
  if dp && decide (ea - 48 < -0o1777) then fpZero sa
  else if !dp && far && decide (48 ≤ d) then (a, none)
  else
    let ovf := decide (2 ^ 96 ≤ sum.natAbs)
    let m := if ovf then sum.natAbs / 2 else sum.natAbs
    let e := if ovf then ea + 1 else ea
    if dp then (fpPack neg (e - 48) (m % 2 ^ 48), none) else (fpPack neg e (m / 2 ^ 48), none)

/-- `fadd(xj, xk, sub, dp, rnd)` (R225); `far` is `FADD_FAR_COPY`. -/
def fadd (far : Bool) (xj xk : Word60) (sub dp rnd : Bool) : FpResult :=
  let k := if sub then ~~~xk else xk
  match specialAdd xj k with
  | some r => r
  | none => faddNum far xj xk k dp rnd

/-! ### The Floating Multiply unit (R226, R241) -/

/-- `fmul(xj, xk, dp, rnd)`; `roundWeight` is what 41 adds to the product (0 for 40 and 42). -/
def fmul (xj xk : Word60) (dp : Bool) (roundWeight : Nat) : FpResult :=
  match specialMul xj xk with
  | some r => r
  | none =>
    let neg := xj.msb != xk.msb
    let e := fpExp xj + fpExp xk + (if dp then 0 else 48)
    if 0o1777 < e then fpInf neg
    else if e < -0o1776 then fpZero neg
    else
      let p := fpCoef xj * fpCoef xk + roundWeight
      let shift := fpNorm xj && fpNorm xk && decide (p < 2 ^ 95)
      let q := if shift then 2 * p else p
      let f := if shift then e - 1 else e
      if dp then (fpPack neg f (q % 2 ^ 48), none) else (fpPack neg f (q / 2 ^ 48), none)

/-- The weight of the round bit of 41 (R241): one fourth for normalized operands, else `RMUL_UNNORM_ROUND`. -/
def roundWeight41 (choice : RoundChoice) (freeBit : Bool) (xj xk : Word60) : Nat :=
  if fpNorm xj && fpNorm xk then 2 ^ 46
  else match choice with
    | .quarter => 2 ^ 46
    | .half => 2 ^ 47
    | .either => if freeBit then 2 ^ 47 else 2 ^ 46

/-! ### The Floating Divide unit (R227) -/

/-- `fdiv(xj, xk, rnd)`. -/
def fdiv (xj xk : Word60) (rnd : Bool) : FpResult :=
  match specialDiv xj xk with
  | some r => r
  | none =>
    let neg := xj.msb != xk.msb
    let mj := fpCoef xj
    let mk := fpCoef xk
    let n := (2 * mj + (if rnd then 1 else 0)) * 2 ^ 48
    let q0 := n / (2 * mk)
    let ov := decide (mk = 0) || decide (2 ^ 48 ≤ q0)
    let q := if ov then q0 / 2 else q0
    let fault := decide (mk = 0) || decide (2 ^ 48 ≤ q)
    let e := fpExp xj - fpExp xk - 48 + (if ov then 1 else 0)
    if 0o1777 < e then fpInf neg
    else if e < -0o1777 then fpZero neg
    else if fault then fpInd
    else (fpPack neg e q, none)

/-! ### Normalize, unpack, pack (42 R198, R199, R206, R207) -/

/-- The number of leading zero bits of a nonzero 48-bit magnitude. -/
def leadingZeros48 (m : Nat) : Nat := 47 - Nat.log2 m

/-- Whether a word is infinite or indefinite (R206). -/
def fpSpecial (w : Word60) : Bool := fpClass w == .inf || fpClass w == .ind

/-- A word of all sign bits. -/
def signWord (w : Word60) : Word60 := if w.msb then BitVec.allOnes 60 else 0

/-- 24 (R206): the word for Xi and the count for Bj. -/
def normalize (w : Word60) : Word60 × Word18 :=
  if fpSpecial w then (w, 0)
  else
    let m := fpCoef w
    if m = 0 then (signWord w, 0o60)
    else
      let n := leadingZeros48 m
      let e := fpExp w - n
      (if e < -0o1777 then signWord w else fpPack w.msb e (m * 2 ^ n % 2 ^ 48), BitVec.ofNat 18 n)

/-- 25 (R207). -/
def roundNormalize (w : Word60) : Word60 × Word18 :=
  if fpSpecial w then (w, 0)
  else
    let m := fpCoef w
    let n := if m = 0 then 48 else leadingZeros48 m
    let m' := if m = 0 then 2 ^ 47 else (2 * m + 1) * 2 ^ n / 2 % 2 ^ 48
    let e := fpExp w - n
    (if e < -0o1777 then signWord w else fpPack w.msb e m', BitVec.ofNat 18 n)

/-- 26 (R198): the coefficient for Xi and the exponent for Bj. -/
def unpackWord (w : Word60) : Word60 × Word18 :=
  ((w.setWidth 48).setWidth 60 ||| (if w.msb then highMask 12 else 0), (fpExp11 w).signExtend 18)

/-- 27 (R199). -/
def packWord (coef : Word60) (b : Word18) : Word60 :=
  let e : BitVec 11 := b.setWidth 11
  let f : BitVec 11 := if coef.msb then e ^^^ 0o1777 else e ^^^ 0o2000
  ((coef &&& 0o40007777777777777777#60)) ||| ((f.setWidth 60) <<< 48)

/-- Deliver a floating result: the word always, and its flag with slip (R224, R417). -/
def deliver (s : State) (i : Reg) (r : FpResult) : State :=
  let t := setX s i r.1
  match r.2 with
  | some f => raiseLate t f
  | none => t

end Sys2Proof.Machine
end

