-- ==== Sys2Proof/Machine/Boolean.lean ====
section
/-!
DEFINITION. Boolean unit instructions 10 to 17, unpack and pack (42_cpu_boolean_shift_normalize.md).
-/

namespace Sys2Proof.Machine

open Sys2Proof

/-- 10: transmit (Xj) to Xi (42 R190). -/
def execBx10 (i : Reg) (j : Reg) (s : State) : Outcome :=
  .next (setX s i (getX s j))

/-- 11: logical product of (Xj) and (Xk) to Xi (42 R191). -/
def execBx11 (i : Reg) (j : Reg) (k : Reg) (s : State) : Outcome :=
  .next (setX s i (getX s j &&& getX s k))

/-- 12: logical sum of (Xj) and (Xk) to Xi (42 R192). -/
def execBx12 (i : Reg) (j : Reg) (k : Reg) (s : State) : Outcome :=
  .next (setX s i (getX s j ||| getX s k))

/-- 13: logical difference of (Xj) and (Xk) to Xi (42 R193). -/
def execBx13 (i : Reg) (j : Reg) (k : Reg) (s : State) : Outcome :=
  .next (setX s i (getX s j ^^^ getX s k))

/-- 14: transmit complement of (Xk) to Xi (42 R194). -/
def execBx14 (i : Reg) (k : Reg) (s : State) : Outcome :=
  .next (setX s i (~~~getX s k))

/-- 15: logical product of (Xj) and complement of (Xk) to Xi (42 R195). -/
def execBx15 (i : Reg) (j : Reg) (k : Reg) (s : State) : Outcome :=
  .next (setX s i (getX s j &&& ~~~getX s k))

/-- 16: logical sum of (Xj) and complement of (Xk) to Xi (42 R196). -/
def execBx16 (i : Reg) (j : Reg) (k : Reg) (s : State) : Outcome :=
  .next (setX s i (getX s j ||| ~~~getX s k))

/-- 17: logical difference of (Xj) and complement of (Xk) to Xi (42 R197). -/
def execBx17 (i : Reg) (j : Reg) (k : Reg) (s : State) : Outcome :=
  .next (setX s i (getX s j ^^^ ~~~getX s k))

/-- 26: unpack (Xk) to Xi and Bj (42 R198). -/
def execUx26 (i : Reg) (j : Reg) (k : Reg) (s : State) : Outcome :=
  .next (setB (setX s i (unpackWord (getX s k)).1) j (unpackWord (getX s k)).2)

/-- 27: pack (Xk) and (Bj) to Xi (42 R199). -/
def execPx27 (i : Reg) (j : Reg) (k : Reg) (s : State) : Outcome :=
  .next (setX s i (packWord (getX s k) (getB s j)))

end Sys2Proof.Machine
end

