-- ==== Sys2Proof/Machine/Branch.lean ====
section
/-!
DEFINITION. The branch instructions 010, 02 to 07 (41_cpu_branch.md).
-/

namespace Sys2Proof.Machine

open Sys2Proof

/-- The exit word that 010 stores: 0400 with the return address in bits 47 to 30 (R171). -/
def exitWord (ret : Word18) : Word60 := ((0o0400 : Word60) <<< 48) ||| ((ret.setWidth 60) <<< 30)

/-- The store of a Return Jump, unless K is out of range or the range flag stops stores (R171, R423). -/
def returnStore (s : State) (K : Word18) : State :=
  if s.cpu.fls ≤ K then rangeNow s
  else if flag s .scmDirectRange then s
  else scmStore s (scmAbs s K) (exitWord (nextWord s))

/-- Whether one of the Return Jump's own tests on K fires. -/
def returnFault (s : State) (K : Word18) : Bool := decide (s.cpu.fls ≤ K) || K == 0 || K == s.cpu.bpa

/-- 010: the store, the tests on K, the void stack, and either the jump to K + 1 or the error exit with K + 1 stored. That
exit comes at once, so the test of R432 on the word after this one, which belongs to the end of a word, is then not made and
Breakpoint not set for it: DESIGN CHOICE, assumption 38. -/
def returnJump (s : State) (K : Word18) : State :=
  let t := setFlagIf (setFlagIf (returnStore s K) (K == 0) .programRange) (K == s.cpu.bpa) .breakpoint
  let u := { t with cpu := { t.cpu with iws := [] } }
  if returnFault s K then errorExit u (K + 1) else jumpTo u (K + 1)

/-- Both zeros (R173). -/
def xZero (x : Word60) : Bool := x == 0 || x == BitVec.allOnes 60

/-- Overflow or indefinite forms, by bits 59 to 48 (R177). -/
def xOutOfRange (x : Word60) : Bool :=
  let e := fpTop x
  e == 0o3777 || e == 0o4000 || e == 0o1777 || e == 0o6000

/-- Indefinite forms (R179). -/
def xIndefinite (x : Word60) : Bool :=
  let e := fpTop x
  e == 0o1777 || e == 0o6000

/-! ### The instructions -/

/-- 010: return jump to K (41 R171). -/
def execRj010 (K : Word18) (s : State) : Outcome :=
  .next (returnJump s K)

/-- 02: jump to (Bi) + K, by the pseudocode and the adder of R17 where the prose of R172 says otherwise of a sum of zeros
(41 R172; DESIGN CHOICE, assumption 15). -/
def execJp02 (i : Reg) (K : Word18) (s : State) : Outcome :=
  .next (jumpTo s (ocAdd (getB s i) K))

/-- 030: branch to K if (Xj) = 0 (41 R173). -/
def execZr030 (j : Reg) (K : Word18) (s : State) : Outcome :=
  .next (jumpIf s (xZero (getX s j)) K)

/-- 031: branch to K if (Xj) is not 0 (41 R174). -/
def execNz031 (j : Reg) (K : Word18) (s : State) : Outcome :=
  .next (jumpIf s (!xZero (getX s j)) K)

/-- 032: branch to K if (Xj) is positive (41 R175). -/
def execPl032 (j : Reg) (K : Word18) (s : State) : Outcome :=
  .next (jumpIf s (!(getX s j).msb) K)

/-- 033: branch to K if (Xj) is negative (41 R176). -/
def execNg033 (j : Reg) (K : Word18) (s : State) : Outcome :=
  .next (jumpIf s ((getX s j).msb) K)

/-- 034: branch to K if (Xj) is in range (41 R177). -/
def execIr034 (j : Reg) (K : Word18) (s : State) : Outcome :=
  .next (jumpIf s (!xOutOfRange (getX s j)) K)

/-- 035: branch to K if (Xj) is out of range (41 R178). -/
def execOr035 (j : Reg) (K : Word18) (s : State) : Outcome :=
  .next (jumpIf s (xOutOfRange (getX s j)) K)

/-- 036: branch to K if (Xj) is definite (41 R179). -/
def execDf036 (j : Reg) (K : Word18) (s : State) : Outcome :=
  .next (jumpIf s (!xIndefinite (getX s j)) K)

/-- 037: branch to K if (Xj) is indefinite (41 R180). -/
def execId037 (j : Reg) (K : Word18) (s : State) : Outcome :=
  .next (jumpIf s (xIndefinite (getX s j)) K)

/-- 04: branch to K if (Bi) = (Bj) (41 R181). -/
def execEq04 (i : Reg) (j : Reg) (K : Word18) (s : State) : Outcome :=
  .next (jumpIf s (getB s i == getB s j) K)

/-- 05: branch to K if (Bi) is not (Bj) (41 R182). -/
def execNe05 (i : Reg) (j : Reg) (K : Word18) (s : State) : Outcome :=
  .next (jumpIf s (getB s i != getB s j) K)

/-- 06: branch to K if (Bi) >= (Bj) (41 R183). -/
def execGe06 (i : Reg) (j : Reg) (K : Word18) (s : State) : Outcome :=
  .next (jumpIf s (ocGe (getB s i) (getB s j)) K)

/-- 07: branch to K if (Bi) < (Bj) (41 R184). -/
def execLt07 (i : Reg) (j : Reg) (K : Word18) (s : State) : Outcome :=
  .next (jumpIf s (!ocGe (getB s i) (getB s j)) K)

end Sys2Proof.Machine
end

