-- ==== Sys2Proof/Machine/FloatArith.lean ====
section
/-!
DEFINITION. Floating Add, Multiply and Divide unit instructions 30 to 35, 40 to 42, 44, 45 (43_cpu_floating.md).
-/

namespace Sys2Proof.Machine

open Sys2Proof

/-- The weight of the round bit of 41 in this state (R241). -/
def roundWeight (s : State) (xj xk : Word60) : Nat :=
  roundWeight41 s.cfg.rmulRound (Config.drawBool s.tick .roundBit) xj xk

/-- 30: floating sum of (Xj) and (Xk) to Xi (43 R230). -/
def execFx30 (i : Reg) (j : Reg) (k : Reg) (s : State) : Outcome :=
  .next (deliver s i (fadd s.cfg.faddFarCopy (getX s j) (getX s k) false false false))

/-- 31: floating difference of (Xj) minus (Xk) to Xi (43 R231). -/
def execFx31 (i : Reg) (j : Reg) (k : Reg) (s : State) : Outcome :=
  .next (deliver s i (fadd s.cfg.faddFarCopy (getX s j) (getX s k) true false false))

/-- 32: floating double precision sum to Xi (43 R232). -/
def execDx32 (i : Reg) (j : Reg) (k : Reg) (s : State) : Outcome :=
  .next (deliver s i (fadd s.cfg.faddFarCopy (getX s j) (getX s k) false true false))

/-- 33: floating double precision difference to Xi (43 R233). -/
def execDx33 (i : Reg) (j : Reg) (k : Reg) (s : State) : Outcome :=
  .next (deliver s i (fadd s.cfg.faddFarCopy (getX s j) (getX s k) true true false))

/-- 34: round floating sum to Xi (43 R234). -/
def execRx34 (i : Reg) (j : Reg) (k : Reg) (s : State) : Outcome :=
  .next (deliver s i (fadd s.cfg.faddFarCopy (getX s j) (getX s k) false false true))

/-- 35: round floating difference to Xi (43 R235). -/
def execRx35 (i : Reg) (j : Reg) (k : Reg) (s : State) : Outcome :=
  .next (deliver s i (fadd s.cfg.faddFarCopy (getX s j) (getX s k) true false true))

/-- 40: floating product to Xi (43 R240). -/
def execFx40 (i : Reg) (j : Reg) (k : Reg) (s : State) : Outcome :=
  .next (deliver s i (fmul (getX s j) (getX s k) false 0))

/-- 41: round floating product to Xi (43 R241). -/
def execRx41 (i : Reg) (j : Reg) (k : Reg) (s : State) : Outcome :=
  .next (deliver s i (fmul (getX s j) (getX s k) false (roundWeight s (getX s j) (getX s k))))

/-- 42: floating double precision product to Xi (43 R242). -/
def execDx42 (i : Reg) (j : Reg) (k : Reg) (s : State) : Outcome :=
  .next (deliver s i (fmul (getX s j) (getX s k) true 0))

/-- 44: floating divide (Xj) by (Xk) to Xi (43 R245). -/
def execFx44 (i : Reg) (j : Reg) (k : Reg) (s : State) : Outcome :=
  .next (deliver s i (fdiv (getX s j) (getX s k) false))

/-- 45: round floating divide (Xj) by (Xk) to Xi (43 R246). -/
def execRx45 (i : Reg) (j : Reg) (k : Reg) (s : State) : Outcome :=
  .next (deliver s i (fdiv (getX s j) (getX s k) true))

end Sys2Proof.Machine
end

