-- ==== Sys2Proof/Machine/LongAdd.lean ====
section
/-!
DEFINITION. Long Add 36 and 37, Pass 46, population count 47 (44_cpu_longadd_pass_popcount_increment.md).
-/

namespace Sys2Proof.Machine

open Sys2Proof

/-- 36: integer sum of (Xj) and (Xk) to Xi (44 R260). -/
def execIx36 (i : Reg) (j : Reg) (k : Reg) (s : State) : Outcome :=
  .next (setX s i (ocAdd (getX s j) (getX s k)))

/-- 37: integer difference of (Xj) minus (Xk) to Xi (44 R261). -/
def execIx37 (i : Reg) (j : Reg) (k : Reg) (s : State) : Outcome :=
  .next (setX s i (ocSub (getX s j) (getX s k)))

/-- 46: Pass (44 R262). -/
def execNo46 (s : State) : Outcome :=
  .next s

/-- 47: population count of (Xk) to Xi (44 R263). -/
def execCx47 (i : Reg) (k : Reg) (s : State) : Outcome :=
  .next (setX s i (BitVec.ofNat 60 (popCount (getX s k))))

end Sys2Proof.Machine
end

