-- ==== Sys2Proof/Machine/PpuArith.lean ====
section
/-!
DEFINITION. PPU shift, logical, load, add, store and replace instructions 10 to 23 and 30 to 57 (45_ppu_instructions.md).
-/

namespace Sys2Proof.Machine

open Sys2Proof

/-! ### The eight operations on a memory operand at address `a` -/

/-- A <- zext_18(M[a]). -/
def ppuLoad (u : Ppu) (a : Word12) : Ppu := { u with a := (u.read a).setWidth 18 }

/-- A <- oc_add_18(A, zext_18(M[a])). -/
def ppuAdd (u : Ppu) (a : Word12) : Ppu := { u with a := ocAdd u.a ((u.read a).setWidth 18) }

/-- A <- oc_sub_18(A, zext_18(M[a])). -/
def ppuSub (u : Ppu) (a : Word12) : Ppu := { u with a := ocSub u.a ((u.read a).setWidth 18) }

/-- A <- A XOR zext_18(M[a]). -/
def ppuDiff (u : Ppu) (a : Word12) : Ppu := { u with a := u.a ^^^ (u.read a).setWidth 18 }

/-- M[a] <- A[11:0]. -/
def ppuStore (u : Ppu) (a : Word12) : Ppu := u.write a (u.a.setWidth 12)

/-- A <- v; M[a] <- A[11:0]. -/
def ppuReplace (u : Ppu) (a : Word12) (v : Word18) : Ppu := { u with a := v }.write a (v.setWidth 12)

/-- Replace add. -/
def ppuReplaceAdd (u : Ppu) (a : Word12) : Ppu := ppuReplace u a (ocAdd u.a ((u.read a).setWidth 18))

/-- Replace add one. -/
def ppuReplaceAddOne (u : Ppu) (a : Word12) : Ppu := ppuReplace u a (ocAdd ((u.read a).setWidth 18) 1)

/-- Replace subtract one. -/
def ppuReplaceSubOne (u : Ppu) (a : Word12) : Ppu := ppuReplace u a (ocSub ((u.read a).setWidth 18) 1)

/-! ### The instructions -/

/-- 10: shift (A) by d (45 R318). -/
def execShn10 (d : BitVec 6) (s : State) : Outcome :=
  ppuThen s { getPpu s with a := shiftA (getPpu s).a d } 1

/-- 11: logical difference (A) and d (45 R319). -/
def execLmn11 (d : BitVec 6) (s : State) : Outcome :=
  ppuThen s { getPpu s with a := (getPpu s).a ^^^ opNo d } 1

/-- 12: logical product (A) and d (45 R320). -/
def execLpn12 (d : BitVec 6) (s : State) : Outcome :=
  ppuThen s { getPpu s with a := (getPpu s).a &&& opNo d } 1

/-- 13: selective clear (A) (45 R321). -/
def execScn13 (d : BitVec 6) (s : State) : Outcome :=
  ppuThen s { getPpu s with a := (getPpu s).a &&& ~~~opNo d } 1

/-- 14: load d (45 R322). -/
def execLdn14 (d : BitVec 6) (s : State) : Outcome :=
  ppuThen s { getPpu s with a := opNo d } 1

/-- 15: load complement d (45 R323). -/
def execLcn15 (d : BitVec 6) (s : State) : Outcome :=
  ppuThen s { getPpu s with a := ~~~opNo d } 1

/-- 16: add (A) + d (45 R324). -/
def execAdn16 (d : BitVec 6) (s : State) : Outcome :=
  ppuThen s { getPpu s with a := ocAdd (getPpu s).a (opNo d) } 1

/-- 17: subtract (A) - d (45 R325). -/
def execSbn17 (d : BitVec 6) (s : State) : Outcome :=
  ppuThen s { getPpu s with a := ocSub (getPpu s).a (opNo d) } 1

/-- 20: load dm (45 R326). -/
def execLdc20 (d : BitVec 6) (m : Word12) (s : State) : Outcome :=
  ppuThen s { getPpu s with a := opConst d m } 2

/-- 21: add (A) + dm (45 R327). -/
def execAdc21 (d : BitVec 6) (m : Word12) (s : State) : Outcome :=
  ppuThen s { getPpu s with a := ocAdd (getPpu s).a (opConst d m) } 2

/-- 22: logical product (A) and dm (45 R328). -/
def execLpc22 (d : BitVec 6) (m : Word12) (s : State) : Outcome :=
  ppuThen s { getPpu s with a := (getPpu s).a &&& opConst d m } 2

/-- 23: logical difference (A) and dm (45 R329). -/
def execLmc23 (d : BitVec 6) (m : Word12) (s : State) : Outcome :=
  ppuThen s { getPpu s with a := (getPpu s).a ^^^ opConst d m } 2

/-- 30: load (d) (45 R331). -/
def execLdd30 (d : BitVec 6) (s : State) : Outcome :=
  ppuThen s (ppuLoad (getPpu s) (addrDirect d)) 1

/-- 31: add (A) + (d) (45 R332). -/
def execAdd31 (d : BitVec 6) (s : State) : Outcome :=
  ppuThen s (ppuAdd (getPpu s) (addrDirect d)) 1

/-- 32: subtract (A) - (d) (45 R333). -/
def execSbd32 (d : BitVec 6) (s : State) : Outcome :=
  ppuThen s (ppuSub (getPpu s) (addrDirect d)) 1

/-- 33: logical difference (A) and (d) (45 R334). -/
def execLmd33 (d : BitVec 6) (s : State) : Outcome :=
  ppuThen s (ppuDiff (getPpu s) (addrDirect d)) 1

/-- 34: store (A) at the address of (d) (45 R335). -/
def execStd34 (d : BitVec 6) (s : State) : Outcome :=
  ppuThen s (ppuStore (getPpu s) (addrDirect d)) 1

/-- 35: replace add (A) + (d) (45 R336). -/
def execRad35 (d : BitVec 6) (s : State) : Outcome :=
  ppuThen s (ppuReplaceAdd (getPpu s) (addrDirect d)) 1

/-- 36: replace add one (d) (45 R337). -/
def execAod36 (d : BitVec 6) (s : State) : Outcome :=
  ppuThen s (ppuReplaceAddOne (getPpu s) (addrDirect d)) 1

/-- 37: replace subtract one (d) (45 R338). -/
def execSod37 (d : BitVec 6) (s : State) : Outcome :=
  ppuThen s (ppuReplaceSubOne (getPpu s) (addrDirect d)) 1

/-- 40: load ((d)) (45 R339). -/
def execLdi40 (d : BitVec 6) (s : State) : Outcome :=
  ppuThen s (ppuLoad (getPpu s) (addrIndirect (getPpu s) d)) 1

/-- 41: add (A) + ((d)) (45 R340). -/
def execAdi41 (d : BitVec 6) (s : State) : Outcome :=
  ppuThen s (ppuAdd (getPpu s) (addrIndirect (getPpu s) d)) 1

/-- 42: subtract (A) - ((d)) (45 R341). -/
def execSbi42 (d : BitVec 6) (s : State) : Outcome :=
  ppuThen s (ppuSub (getPpu s) (addrIndirect (getPpu s) d)) 1

/-- 43: logical difference (A) and ((d)) (45 R342). -/
def execLmi43 (d : BitVec 6) (s : State) : Outcome :=
  ppuThen s (ppuDiff (getPpu s) (addrIndirect (getPpu s) d)) 1

/-- 44: store (A) at the address of ((d)) (45 R343). -/
def execSti44 (d : BitVec 6) (s : State) : Outcome :=
  ppuThen s (ppuStore (getPpu s) (addrIndirect (getPpu s) d)) 1

/-- 45: replace add (A) + ((d)) (45 R344). -/
def execRai45 (d : BitVec 6) (s : State) : Outcome :=
  ppuThen s (ppuReplaceAdd (getPpu s) (addrIndirect (getPpu s) d)) 1

/-- 46: replace add one ((d)) (45 R345). -/
def execAoi46 (d : BitVec 6) (s : State) : Outcome :=
  ppuThen s (ppuReplaceAddOne (getPpu s) (addrIndirect (getPpu s) d)) 1

/-- 47: replace subtract one ((d)) (45 R346). -/
def execSoi47 (d : BitVec 6) (s : State) : Outcome :=
  ppuThen s (ppuReplaceSubOne (getPpu s) (addrIndirect (getPpu s) d)) 1

/-- 50: load (m + (d)) (45 R347). -/
def execLdm50 (d : BitVec 6) (m : Word12) (s : State) : Outcome :=
  ppuThen s (ppuLoad (getPpu s) (addrIndexed (getPpu s) d m)) 2

/-- 51: add (A) + (m + (d)) (45 R348). -/
def execAdm51 (d : BitVec 6) (m : Word12) (s : State) : Outcome :=
  ppuThen s (ppuAdd (getPpu s) (addrIndexed (getPpu s) d m)) 2

/-- 52: subtract (A) - (m + (d)) (45 R349). -/
def execSbm52 (d : BitVec 6) (m : Word12) (s : State) : Outcome :=
  ppuThen s (ppuSub (getPpu s) (addrIndexed (getPpu s) d m)) 2

/-- 53: logical difference (A) and (m + (d)) (45 R350). -/
def execLmm53 (d : BitVec 6) (m : Word12) (s : State) : Outcome :=
  ppuThen s (ppuDiff (getPpu s) (addrIndexed (getPpu s) d m)) 2

/-- 54: store (A) at the address of (m + (d)) (45 R351). -/
def execStm54 (d : BitVec 6) (m : Word12) (s : State) : Outcome :=
  ppuThen s (ppuStore (getPpu s) (addrIndexed (getPpu s) d m)) 2

/-- 55: replace add (A) + (m + (d)) (45 R352). -/
def execRam55 (d : BitVec 6) (m : Word12) (s : State) : Outcome :=
  ppuThen s (ppuReplaceAdd (getPpu s) (addrIndexed (getPpu s) d m)) 2

/-- 56: replace add one (m + (d)) (45 R353). -/
def execAom56 (d : BitVec 6) (m : Word12) (s : State) : Outcome :=
  ppuThen s (ppuReplaceAddOne (getPpu s) (addrIndexed (getPpu s) d m)) 2

/-- 57: replace subtract one (m + (d)) (45 R354). -/
def execSom57 (d : BitVec 6) (m : Word12) (s : State) : Outcome :=
  ppuThen s (ppuReplaceSubOne (getPpu s) (addrIndexed (getPpu s) d m)) 2

end Sys2Proof.Machine
end

