-- ==== Sys2Proof/Machine/PpuControl.lean ====
section
/-!
DEFINITION. PPU error stop, pass and jumps: 00 to 07, 24 to 27, 75 to 77 (45_ppu_instructions.md section 2).
-/

namespace Sys2Proof.Machine

open Sys2Proof

/-- 02: M[t] <- next(P, 2); P <- next(t, 1) (R312). -/
def ppuReturnJump (s : State) (t : Word12) : Outcome :=
  match nextAddr s.cfg.pWrap (getPpu s).p 2, nextAddr s.cfg.pWrap t 1 with
  | some ret, some target => ppuJump s ((getPpu s).write t ret) target
  | _, _ => .fault .ppuAddressStuck

/-- 00: error stop (45 R310). -/
def execEsn00 (s : State) : Outcome :=
  .next (setPpu s { getPpu s with stopped := true })

/-- 77: error stop (45 R310). -/
def execEsn77 (s : State) : Outcome :=
  .next (setPpu s { getPpu s with stopped := true })

/-- 24: Pass (45 R330). -/
def execPsn24 (s : State) : Outcome :=
  ppuThen s (getPpu s) 1

/-- 25: Pass (45 R330). -/
def execPass25 (s : State) : Outcome :=
  ppuThen s (getPpu s) 1

/-- 26: Pass (45 R330). -/
def execPass26 (s : State) : Outcome :=
  ppuThen s (getPpu s) 1

/-- 27: Pass (45 R330). -/
def execPass27 (s : State) : Outcome :=
  ppuThen s (getPpu s) 1

/-- 75: Pass (45 R330). -/
def execPass75 (s : State) : Outcome :=
  ppuThen s (getPpu s) 1

/-- 76: Pass (45 R330). -/
def execPass76 (s : State) : Outcome :=
  ppuThen s (getPpu s) 1

/-- 01: long jump to m + (d) (45 R311). -/
def execLjm01 (d : BitVec 6) (m : Word12) (s : State) : Outcome :=
  ppuJump s (getPpu s) (addrIndexed (getPpu s) d m)

/-- 02: return jump to m + (d) (45 R312). -/
def execRjm02 (d : BitVec 6) (m : Word12) (s : State) : Outcome :=
  ppuReturnJump s (addrIndexed (getPpu s) d m)

/-- 03: unconditional jump d (45 R313). -/
def execUjn03 (d : BitVec 6) (s : State) : Outcome :=
  ppuJump s (getPpu s) (jumpRel (getPpu s) d)

/-- 04: zero jump d (45 R314). -/
def execZjn04 (d : BitVec 6) (s : State) : Outcome :=
  ppuJumpIf s (getPpu s) ((getPpu s).a == 0) (jumpRel (getPpu s) d) 1

/-- 05: nonzero jump d (45 R315). -/
def execNjn05 (d : BitVec 6) (s : State) : Outcome :=
  ppuJumpIf s (getPpu s) ((getPpu s).a != 0) (jumpRel (getPpu s) d) 1

/-- 06: plus jump d (45 R316). -/
def execPjn06 (d : BitVec 6) (s : State) : Outcome :=
  ppuJumpIf s (getPpu s) (!(getPpu s).a.msb) (jumpRel (getPpu s) d) 1

/-- 07: minus jump d (45 R317). -/
def execMjn07 (d : BitVec 6) (s : State) : Outcome :=
  ppuJumpIf s (getPpu s) ((getPpu s).a.msb) (jumpRel (getPpu s) d) 1

end Sys2Proof.Machine
end

