-- ==== Sys2Proof/Machine/SetA.lean ====
section
/-!
DEFINITION. Set Ai, 50 to 57 (44_cpu_longadd_pass_popcount_increment.md section 4): the load and store of SCM.
-/

namespace Sys2Proof.Machine

open Sys2Proof

/-- 50: set Ai to (Aj) + K, with the SCM reference that i asks for (44 R270, R282, R283). -/
def execSa50 (i : Reg) (j : Reg) (K : Word18) (s : State) : Outcome :=
  .next (setAddr s i (ocAdd (getA s j) K))

/-- 51: set Ai to (Bj) + K, with the SCM reference that i asks for (44 R271, R282, R283). -/
def execSa51 (i : Reg) (j : Reg) (K : Word18) (s : State) : Outcome :=
  .next (setAddr s i (ocAdd (getB s j) K))

/-- 52: set Ai to (Xj) + K, with the SCM reference that i asks for (44 R272, R282, R283). -/
def execSa52 (i : Reg) (j : Reg) (K : Word18) (s : State) : Outcome :=
  .next (setAddr s i (ocAdd (getX18 s j) K))

/-- 53: set Ai to (Xj) + (Bk), with the SCM reference that i asks for (44 R273, R282, R283). -/
def execSa53 (i : Reg) (j : Reg) (k : Reg) (s : State) : Outcome :=
  .next (setAddr s i (ocAdd (getX18 s j) (getB s k)))

/-- 54: set Ai to (Aj) + (Bk), with the SCM reference that i asks for (44 R274, R282, R283). -/
def execSa54 (i : Reg) (j : Reg) (k : Reg) (s : State) : Outcome :=
  .next (setAddr s i (ocAdd (getA s j) (getB s k)))

/-- 55: set Ai to (Aj) - (Bk), with the SCM reference that i asks for (44 R275, R282, R283). -/
def execSa55 (i : Reg) (j : Reg) (k : Reg) (s : State) : Outcome :=
  .next (setAddr s i (ocSub (getA s j) (getB s k)))

/-- 56: set Ai to (Bj) + (Bk), with the SCM reference that i asks for (44 R276, R282, R283). -/
def execSa56 (i : Reg) (j : Reg) (k : Reg) (s : State) : Outcome :=
  .next (setAddr s i (ocAdd (getB s j) (getB s k)))

/-- 57: set Ai to (Bj) - (Bk), with the SCM reference that i asks for (44 R277, R282, R283). -/
def execSa57 (i : Reg) (j : Reg) (k : Reg) (s : State) : Outcome :=
  .next (setAddr s i (ocSub (getB s j) (getB s k)))

end Sys2Proof.Machine
end

