-- ==== Sys2Proof/Machine/SetB.lean ====
section
/-!
DEFINITION. Set Bi, 60 to 67 (44_cpu_longadd_pass_popcount_increment.md section 5).
-/

namespace Sys2Proof.Machine

open Sys2Proof

/-- 60: set Bi to (Aj) + K (44 R284, R282). -/
def execSb60 (i : Reg) (j : Reg) (K : Word18) (s : State) : Outcome :=
  .next (setB s i (ocAdd (getA s j) K))

/-- 61: set Bi to (Bj) + K (44 R285, R282). -/
def execSb61 (i : Reg) (j : Reg) (K : Word18) (s : State) : Outcome :=
  .next (setB s i (ocAdd (getB s j) K))

/-- 62: set Bi to (Xj) + K (44 R286, R282). -/
def execSb62 (i : Reg) (j : Reg) (K : Word18) (s : State) : Outcome :=
  .next (setB s i (ocAdd (getX18 s j) K))

/-- 63: set Bi to (Xj) + (Bk) (44 R287, R282). -/
def execSb63 (i : Reg) (j : Reg) (k : Reg) (s : State) : Outcome :=
  .next (setB s i (ocAdd (getX18 s j) (getB s k)))

/-- 64: set Bi to (Aj) + (Bk) (44 R288, R282). -/
def execSb64 (i : Reg) (j : Reg) (k : Reg) (s : State) : Outcome :=
  .next (setB s i (ocAdd (getA s j) (getB s k)))

/-- 65: set Bi to (Aj) - (Bk) (44 R289, R282). -/
def execSb65 (i : Reg) (j : Reg) (k : Reg) (s : State) : Outcome :=
  .next (setB s i (ocSub (getA s j) (getB s k)))

/-- 66: set Bi to (Bj) + (Bk) (44 R290, R282). -/
def execSb66 (i : Reg) (j : Reg) (k : Reg) (s : State) : Outcome :=
  .next (setB s i (ocAdd (getB s j) (getB s k)))

/-- 67: set Bi to (Bj) - (Bk) (44 R291, R282). -/
def execSb67 (i : Reg) (j : Reg) (k : Reg) (s : State) : Outcome :=
  .next (setB s i (ocSub (getB s j) (getB s k)))

end Sys2Proof.Machine
end

