-- ==== Sys2Proof/Machine/SetX.lean ====
section
/-!
DEFINITION. Set Xi, 70 to 77 (44_cpu_longadd_pass_popcount_increment.md section 6).
-/

namespace Sys2Proof.Machine

open Sys2Proof

/-- 70: set Xi to (Aj) + K, sign extended (44 R292, R282). -/
def execSx70 (i : Reg) (j : Reg) (K : Word18) (s : State) : Outcome :=
  .next (setX s i ((ocAdd (getA s j) K).signExtend 60))

/-- 71: set Xi to (Bj) + K, sign extended (44 R293, R282). -/
def execSx71 (i : Reg) (j : Reg) (K : Word18) (s : State) : Outcome :=
  .next (setX s i ((ocAdd (getB s j) K).signExtend 60))

/-- 72: set Xi to (Xj) + K, sign extended (44 R294, R282). -/
def execSx72 (i : Reg) (j : Reg) (K : Word18) (s : State) : Outcome :=
  .next (setX s i ((ocAdd (getX18 s j) K).signExtend 60))

/-- 73: set Xi to (Xj) + (Bk), sign extended (44 R295, R282). -/
def execSx73 (i : Reg) (j : Reg) (k : Reg) (s : State) : Outcome :=
  .next (setX s i ((ocAdd (getX18 s j) (getB s k)).signExtend 60))

/-- 74: set Xi to (Aj) + (Bk), sign extended (44 R296, R282). -/
def execSx74 (i : Reg) (j : Reg) (k : Reg) (s : State) : Outcome :=
  .next (setX s i ((ocAdd (getA s j) (getB s k)).signExtend 60))

/-- 75: set Xi to (Aj) - (Bk), sign extended (44 R297, R282). -/
def execSx75 (i : Reg) (j : Reg) (k : Reg) (s : State) : Outcome :=
  .next (setX s i ((ocSub (getA s j) (getB s k)).signExtend 60))

/-- 76: set Xi to (Bj) + (Bk), sign extended (44 R298, R282). -/
def execSx76 (i : Reg) (j : Reg) (k : Reg) (s : State) : Outcome :=
  .next (setX s i ((ocAdd (getB s j) (getB s k)).signExtend 60))

/-- 77: set Xi to (Bj) - (Bk), sign extended (44 R299, R282). -/
def execSx77 (i : Reg) (j : Reg) (k : Reg) (s : State) : Outcome :=
  .next (setX s i ((ocSub (getB s j) (getB s k)).signExtend 60))

end Sys2Proof.Machine
end

