-- ==== Sys2Proof/Machine/Shift.lean ====
section
/-!
DEFINITION. Shift and mask instructions 20 to 23 and 43, and the Normalize unit 24 and 25 (42_cpu_boolean_shift_normalize.md).
-/

namespace Sys2Proof.Machine

open Sys2Proof

/-- 22: left circular by (Bj)[5:0], or right by the complement of (Bj)[11:0] (R202). -/
def shiftNominal (x : Word60) (b : Word18) : Word60 :=
  if b.msb then asr60 x ((~~~b).toNat % 4096) else rotl x (b.toNat % 64)

/-- 23: right by (Bj)[11:0], or left circular by the complement of (Bj)[5:0] (R203). -/
def shiftNominalRight (x : Word60) (b : Word18) : Word60 :=
  if b.msb then rotl x ((~~~b).toNat % 64) else asr60 x (b.toNat % 4096)

/-- 20: left shift (Xi) by jk, circular (42 R200). -/
def execLx20 (i : Reg) (jk : BitVec 6) (s : State) : Outcome :=
  .next (setX s i (rotl (getX s i) jk.toNat))

/-- 21: right shift (Xi) by jk, end off with sign extension (42 R201). -/
def execAx21 (i : Reg) (jk : BitVec 6) (s : State) : Outcome :=
  .next (setX s i (asr60 (getX s i) jk.toNat))

/-- 22: left shift (Xk) nominally (Bj) places to Xi (42 R202). -/
def execLx22 (i : Reg) (j : Reg) (k : Reg) (s : State) : Outcome :=
  .next (setX s i (shiftNominal (getX s k) (getB s j)))

/-- 23: right shift (Xk) nominally (Bj) places to Xi (42 R203). -/
def execAx23 (i : Reg) (j : Reg) (k : Reg) (s : State) : Outcome :=
  .next (setX s i (shiftNominalRight (getX s k) (getB s j)))

/-- 43: form mask of jk bits to Xi (42 R204). -/
def execMx43 (i : Reg) (jk : BitVec 6) (s : State) : Outcome :=
  .next (setX s i (highMask jk.toNat))

/-- 24: normalize (Xk) to Xi and Bj (42 R206). -/
def execNx24 (i : Reg) (j : Reg) (k : Reg) (s : State) : Outcome :=
  .next (setB (setX s i (normalize (getX s k)).1) j (normalize (getX s k)).2)

/-- 25: round and normalize (Xk) to Xi and Bj (42 R207). -/
def execZx25 (i : Reg) (j : Reg) (k : Reg) (s : State) : Outcome :=
  .next (setB (setX s i (roundNormalize (getX s k)).1) j (roundNormalize (getX s k)).2)

end Sys2Proof.Machine
end

