-- ==== Sys2Proof/Machine/Dispatch.lean ====
section
/-!
DEFINITION. The meaning of every instruction: one arm per constructor, each one call of its own definition.
-/

namespace Sys2Proof.Machine

open Sys2Proof

def exec (i : Instr) (s : State) : Host.Outcome State Fault Refusal :=
  match i with
  | .es00 => Sys2Proof.Machine.execEs00 s
  | .rj010 K => Sys2Proof.Machine.execRj010 K s
  | .rl011 j K => Sys2Proof.Machine.execRl011 j K s
  | .wl012 j K => Sys2Proof.Machine.execWl012 j K s
  | .mj013Nea => Sys2Proof.Machine.execMj013Nea s
  | .mj013Bk j K => Sys2Proof.Machine.execMj013Bk j K s
  | .rx014 j k => Sys2Proof.Machine.execRx014 j k s
  | .wx015 j k => Sys2Proof.Machine.execWx015 j k s
  | .ri0160 k => Sys2Proof.Machine.execRi0160 k s
  | .ib016 j k => Sys2Proof.Machine.execIb016 j k s
  | .ro0170 k => Sys2Proof.Machine.execRo0170 k s
  | .ob017 j k => Sys2Proof.Machine.execOb017 j k s
  | .jp02 ri K => Sys2Proof.Machine.execJp02 ri K s
  | .zr030 j K => Sys2Proof.Machine.execZr030 j K s
  | .nz031 j K => Sys2Proof.Machine.execNz031 j K s
  | .pl032 j K => Sys2Proof.Machine.execPl032 j K s
  | .ng033 j K => Sys2Proof.Machine.execNg033 j K s
  | .ir034 j K => Sys2Proof.Machine.execIr034 j K s
  | .or035 j K => Sys2Proof.Machine.execOr035 j K s
  | .df036 j K => Sys2Proof.Machine.execDf036 j K s
  | .id037 j K => Sys2Proof.Machine.execId037 j K s
  | .eq04 ri j K => Sys2Proof.Machine.execEq04 ri j K s
  | .ne05 ri j K => Sys2Proof.Machine.execNe05 ri j K s
  | .ge06 ri j K => Sys2Proof.Machine.execGe06 ri j K s
  | .lt07 ri j K => Sys2Proof.Machine.execLt07 ri j K s
  | .bx10 ri j => Sys2Proof.Machine.execBx10 ri j s
  | .bx11 ri j k => Sys2Proof.Machine.execBx11 ri j k s
  | .bx12 ri j k => Sys2Proof.Machine.execBx12 ri j k s
  | .bx13 ri j k => Sys2Proof.Machine.execBx13 ri j k s
  | .bx14 ri k => Sys2Proof.Machine.execBx14 ri k s
  | .bx15 ri j k => Sys2Proof.Machine.execBx15 ri j k s
  | .bx16 ri j k => Sys2Proof.Machine.execBx16 ri j k s
  | .bx17 ri j k => Sys2Proof.Machine.execBx17 ri j k s
  | .lx20 ri jk => Sys2Proof.Machine.execLx20 ri jk s
  | .ax21 ri jk => Sys2Proof.Machine.execAx21 ri jk s
  | .lx22 ri j k => Sys2Proof.Machine.execLx22 ri j k s
  | .ax23 ri j k => Sys2Proof.Machine.execAx23 ri j k s
  | .nx24 ri j k => Sys2Proof.Machine.execNx24 ri j k s
  | .zx25 ri j k => Sys2Proof.Machine.execZx25 ri j k s
  | .ux26 ri j k => Sys2Proof.Machine.execUx26 ri j k s
  | .px27 ri j k => Sys2Proof.Machine.execPx27 ri j k s
  | .fx30 ri j k => Sys2Proof.Machine.execFx30 ri j k s
  | .fx31 ri j k => Sys2Proof.Machine.execFx31 ri j k s
  | .dx32 ri j k => Sys2Proof.Machine.execDx32 ri j k s
  | .dx33 ri j k => Sys2Proof.Machine.execDx33 ri j k s
  | .rx34 ri j k => Sys2Proof.Machine.execRx34 ri j k s
  | .rx35 ri j k => Sys2Proof.Machine.execRx35 ri j k s
  | .ix36 ri j k => Sys2Proof.Machine.execIx36 ri j k s
  | .ix37 ri j k => Sys2Proof.Machine.execIx37 ri j k s
  | .fx40 ri j k => Sys2Proof.Machine.execFx40 ri j k s
  | .rx41 ri j k => Sys2Proof.Machine.execRx41 ri j k s
  | .dx42 ri j k => Sys2Proof.Machine.execDx42 ri j k s
  | .mx43 ri jk => Sys2Proof.Machine.execMx43 ri jk s
  | .fx44 ri j k => Sys2Proof.Machine.execFx44 ri j k s
  | .rx45 ri j k => Sys2Proof.Machine.execRx45 ri j k s
  | .no46 => Sys2Proof.Machine.execNo46 s
  | .cx47 ri k => Sys2Proof.Machine.execCx47 ri k s
  | .sa50 ri j K => Sys2Proof.Machine.execSa50 ri j K s
  | .sa51 ri j K => Sys2Proof.Machine.execSa51 ri j K s
  | .sa52 ri j K => Sys2Proof.Machine.execSa52 ri j K s
  | .sa53 ri j k => Sys2Proof.Machine.execSa53 ri j k s
  | .sa54 ri j k => Sys2Proof.Machine.execSa54 ri j k s
  | .sa55 ri j k => Sys2Proof.Machine.execSa55 ri j k s
  | .sa56 ri j k => Sys2Proof.Machine.execSa56 ri j k s
  | .sa57 ri j k => Sys2Proof.Machine.execSa57 ri j k s
  | .sb60 ri j K => Sys2Proof.Machine.execSb60 ri j K s
  | .sb61 ri j K => Sys2Proof.Machine.execSb61 ri j K s
  | .sb62 ri j K => Sys2Proof.Machine.execSb62 ri j K s
  | .sb63 ri j k => Sys2Proof.Machine.execSb63 ri j k s
  | .sb64 ri j k => Sys2Proof.Machine.execSb64 ri j k s
  | .sb65 ri j k => Sys2Proof.Machine.execSb65 ri j k s
  | .sb66 ri j k => Sys2Proof.Machine.execSb66 ri j k s
  | .sb67 ri j k => Sys2Proof.Machine.execSb67 ri j k s
  | .sx70 ri j K => Sys2Proof.Machine.execSx70 ri j K s
  | .sx71 ri j K => Sys2Proof.Machine.execSx71 ri j K s
  | .sx72 ri j K => Sys2Proof.Machine.execSx72 ri j K s
  | .sx73 ri j k => Sys2Proof.Machine.execSx73 ri j k s
  | .sx74 ri j k => Sys2Proof.Machine.execSx74 ri j k s
  | .sx75 ri j k => Sys2Proof.Machine.execSx75 ri j k s
  | .sx76 ri j k => Sys2Proof.Machine.execSx76 ri j k s
  | .sx77 ri j k => Sys2Proof.Machine.execSx77 ri j k s
  | .esn00 => Sys2Proof.Machine.execEsn00 s
  | .ljm01 d m => Sys2Proof.Machine.execLjm01 d m s
  | .rjm02 d m => Sys2Proof.Machine.execRjm02 d m s
  | .ujn03 d => Sys2Proof.Machine.execUjn03 d s
  | .zjn04 d => Sys2Proof.Machine.execZjn04 d s
  | .njn05 d => Sys2Proof.Machine.execNjn05 d s
  | .pjn06 d => Sys2Proof.Machine.execPjn06 d s
  | .mjn07 d => Sys2Proof.Machine.execMjn07 d s
  | .shn10 d => Sys2Proof.Machine.execShn10 d s
  | .lmn11 d => Sys2Proof.Machine.execLmn11 d s
  | .lpn12 d => Sys2Proof.Machine.execLpn12 d s
  | .scn13 d => Sys2Proof.Machine.execScn13 d s
  | .ldn14 d => Sys2Proof.Machine.execLdn14 d s
  | .lcn15 d => Sys2Proof.Machine.execLcn15 d s
  | .adn16 d => Sys2Proof.Machine.execAdn16 d s
  | .sbn17 d => Sys2Proof.Machine.execSbn17 d s
  | .ldc20 d m => Sys2Proof.Machine.execLdc20 d m s
  | .adc21 d m => Sys2Proof.Machine.execAdc21 d m s
  | .lpc22 d m => Sys2Proof.Machine.execLpc22 d m s
  | .lmc23 d m => Sys2Proof.Machine.execLmc23 d m s
  | .psn24 => Sys2Proof.Machine.execPsn24 s
  | .pass25 => Sys2Proof.Machine.execPass25 s
  | .pass26 => Sys2Proof.Machine.execPass26 s
  | .pass27 => Sys2Proof.Machine.execPass27 s
  | .ldd30 d => Sys2Proof.Machine.execLdd30 d s
  | .add31 d => Sys2Proof.Machine.execAdd31 d s
  | .sbd32 d => Sys2Proof.Machine.execSbd32 d s
  | .lmd33 d => Sys2Proof.Machine.execLmd33 d s
  | .std34 d => Sys2Proof.Machine.execStd34 d s
  | .rad35 d => Sys2Proof.Machine.execRad35 d s
  | .aod36 d => Sys2Proof.Machine.execAod36 d s
  | .sod37 d => Sys2Proof.Machine.execSod37 d s
  | .ldi40 d => Sys2Proof.Machine.execLdi40 d s
  | .adi41 d => Sys2Proof.Machine.execAdi41 d s
  | .sbi42 d => Sys2Proof.Machine.execSbi42 d s
  | .lmi43 d => Sys2Proof.Machine.execLmi43 d s
  | .sti44 d => Sys2Proof.Machine.execSti44 d s
  | .rai45 d => Sys2Proof.Machine.execRai45 d s
  | .aoi46 d => Sys2Proof.Machine.execAoi46 d s
  | .soi47 d => Sys2Proof.Machine.execSoi47 d s
  | .ldm50 d m => Sys2Proof.Machine.execLdm50 d m s
  | .adm51 d m => Sys2Proof.Machine.execAdm51 d m s
  | .sbm52 d m => Sys2Proof.Machine.execSbm52 d m s
  | .lmm53 d m => Sys2Proof.Machine.execLmm53 d m s
  | .stm54 d m => Sys2Proof.Machine.execStm54 d m s
  | .ram55 d m => Sys2Proof.Machine.execRam55 d m s
  | .aom56 d m => Sys2Proof.Machine.execAom56 d m s
  | .som57 d m => Sys2Proof.Machine.execSom57 d m s
  | .fim60 d m => Sys2Proof.Machine.execFim60 d m s
  | .eim61 d m => Sys2Proof.Machine.execEim61 d m s
  | .irm62 d m => Sys2Proof.Machine.execIrm62 d m s
  | .nim63 d m => Sys2Proof.Machine.execNim63 d m s
  | .fom64 d m => Sys2Proof.Machine.execFom64 d m s
  | .eom65 d m => Sys2Proof.Machine.execEom65 d m s
  | .orm66 d m => Sys2Proof.Machine.execOrm66 d m s
  | .nom67 d m => Sys2Proof.Machine.execNom67 d m s
  | .ian70 d => Sys2Proof.Machine.execIan70 d s
  | .iam71 d m => Sys2Proof.Machine.execIam71 d m s
  | .oan72 d => Sys2Proof.Machine.execOan72 d s
  | .oam73 d m => Sys2Proof.Machine.execOam73 d m s
  | .rfn74 d => Sys2Proof.Machine.execRfn74 d s
  | .pass75 => Sys2Proof.Machine.execPass75 s
  | .pass76 => Sys2Proof.Machine.execPass76 s
  | .esn77 => Sys2Proof.Machine.execEsn77 s

end Sys2Proof.Machine
end

