-- ==== Sys2Proof/Machine/Step.lean ====
section
/-!
DEFINITION. One step of the machine: the agent at the head of `sched` moves, the CPU when `sched` is empty (10_state.md
R20, 70_reset_and_hazards.md R498); then the MCU's levels act and the step counter advances.
-/

namespace Sys2Proof.Machine

open Sys2Proof

/-- Apply a function to a next state. -/
def onNext (r : Host.Outcome State Fault Refusal) (f : State → State) : Host.Outcome State Fault Refusal :=
  match r with
  | .next s => .next (f s)
  | .fault e => .fault e
  | .refused e => .refused e

/-- Execute the instruction at PARCEL (10_state.md R30): issue it, run its meaning, go on to what follows. -/
def runParcel (s : State) : Host.Outcome State Fault Refusal :=
  onNext (exec (currentInstr s) (issue s (currentInstr s))) (fun t => finishInstr t (currentLength s))

/-- Run the first instruction of a word that has been made current, or stop at the error exit taken instead. -/
def runNewWord (t : State) : Host.Outcome State Fault Refusal :=
  if t.cpu.phase = .inWord then runParcel t else .next t

/-- What the CPU does in a turn, by its phase (R30, R96, R412, R418, R473). -/
def cpuMove (s : State) : Host.Outcome State Fault Refusal :=
  match s.cpu.phase with
  | .deadStart => .next (exchangeJump s 0 0 .deadStart)
  | .newInterval => runNewWord (makeCurrent s true)
  | .fetch => runNewWord (makeCurrent s false)
  | .inWord => runParcel s
  | .copying c => .next (copyTurn s c)
  | .exchanging x => .next (exchangeStep s x)

/-- The CPU's turn: nothing under its dead start signal; while requests that SCM has received before its own wait, its own is
received and waits too (R84); else it moves. -/
def cpuTurn (s : State) : Host.Outcome State Fault Refusal :=
  if cpuHeld s then .next s
  else if cpuMustWait s then .next (cpuReceive s)
  else cpuMove (cpuServed s)

/-- The executing PPU's turn (45_ppu_instructions.md R303, 46_ppu_io.md R381). -/
def ppuStep (s : State) : Host.Outcome State Fault Refusal :=
  match (getPpu s).iop with
  | .idle =>
    match ppuInstr s with
    | some i => exec i (ppuBegin s)
    | none => .fault .ppuAddressStuck
  | .inBlock c first boot => inWordStep s c first boot
  | .outBlock c boot => outWordStep s c boot

/-- The turn of PPU `u`. -/
def ppuTurn (s : State) (u : Unit16) : Host.Outcome State Fault Refusal :=
  if ppuReady s u then ppuStep { s with cur := u } else .next s

/-- The turn of the agent of an event. -/
def turn (s : State) : Event → Host.Outcome State Fault Refusal
  | .cpu => cpuTurn s
  | .ppu u => ppuTurn s u
  | e => .next (agentStep s e)

/-- The end of every step: the MCU's levels act, the step counter advances. -/
def endStep (s : State) : State := { settle s with tick := s.tick + 1 }

/-- The event of the next step. -/
def nextEvent (s : State) : Event :=
  match s.sched with
  | [] => .cpu
  | e :: _ => e

/-- The state without that event. -/
def popEvent (s : State) : State := { s with sched := s.sched.tail }

/-- One step of the machine. -/
def step (s : State) : Host.Outcome State Fault Refusal := onNext (turn (popEvent s) (nextEvent s)) endStep

/-- `s` with the table word `w` of `nbits` bits stored where the very next step fetches and runs it (assumption 8). -/
def State.withFetchWord (s : State) (nbits w : Nat) : State := placeWord s nbits w

end Sys2Proof.Machine
end

