-- ==== Sys2Proof/Safety.lean ====
section
/-!
DEFINITION. The terms in which statements about the machine are made: what an instruction leaves unchanged, what an
exchange jump does as a whole, the invariant of every state, and the launch and the end of a run (60_exceptions.md R463).
-/

namespace Sys2Proof.Machine

open Sys2Proof

/-! ### Frames -/

/-- Every word of SCM, LCM and every PPU memory reads as before. -/
def MemSame (s t : State) : Prop :=
  (∀ a, memRead t.scm a = memRead s.scm a) ∧ (∀ a, memRead t.lcm a = memRead s.lcm a)
    ∧ ∀ u : Unit16, ∀ a, memRead t.ppus[u].mem a = memRead s.ppus[u].mem a

/-- Nothing changes but X[i]. -/
def OnlyX (s t : State) (i : Reg) : Prop :=
  t = { s with cpu := { s.cpu with x := t.cpu.x } } ∧ (∀ r, r ≠ i → getX t r = getX s r) ∧ MemSame s t

/-- Nothing changes but B[i]; for i = 0 nothing at all (R24). -/
def OnlyB (s t : State) (i : Reg) : Prop :=
  t = { s with cpu := { s.cpu with b := t.cpu.b } } ∧ (∀ r, r ≠ i → getB t r = getB s r) ∧ getB t 0 = 0
    ∧ (i = 0 → t = s) ∧ MemSame s t

/-- Nothing changes but X[i] and B[j]. -/
def OnlyXB (s t : State) (i j : Reg) : Prop :=
  t = { s with cpu := { s.cpu with x := t.cpu.x, b := t.cpu.b } } ∧ (∀ r, r ≠ i → getX t r = getX s r)
    ∧ (∀ r, r ≠ j → getB t r = getB s r) ∧ getB t 0 = 0 ∧ MemSame s t

/-- Nothing changes but where the CPU goes on. -/
def OnlyFlow (s t : State) : Prop := t = { s with cpu := { s.cpu with flow := t.cpu.flow } } ∧ MemSame s t

/-- Nothing changes but X[i], the three arithmetic flags of the PSD, and SLIP. -/
def OnlyXFlags (s t : State) (i : Reg) : Prop :=
  t = { s with cpu := { s.cpu with x := t.cpu.x, psd := t.cpu.psd, slip := t.cpu.slip } }
    ∧ (∀ r, r ≠ i → getX t r = getX s r) ∧ (∀ n, 3 ≤ n → t.cpu.psd.getLsbD n = s.cpu.psd.getLsbD n) ∧ MemSame s t

/-- Nothing changes but the executing PPU. -/
def OnlyPpu (s t : State) : Prop :=
  t = { s with ppus := t.ppus } ∧ (∀ u : Unit16, u ≠ s.cur → t.ppus[u] = s.ppus[u])

/-- One interrupt event on a side of a channel, from its flags before to IREQ and HELD after: a request, or, while one is
pending or locked out, a held event (20_memory.md R107 (1), (3): the spec's decision D7, assumption 37). -/
def OneEvent (ireq lockout held ireq' held' : Bool) : Prop :=
  (ireq = false → lockout = false → ireq' = true ∧ held' = held)
    ∧ (ireq = true ∨ lockout = true → ireq' = ireq ∧ held' = true)

/-- No bad parity waits: the premise that R433 names. -/
def NoParity (s : State) : Prop := s.scmBad = [] ∧ s.lcmBad = []

/-- Whether SCM, receiving both at once, may serve `p` before `q` (R84): by the classes of requests; within the multiplexer the
lowest channel first, and of one channel input before output. The MCU's rank among the channels is open. -/
def MayPrecede (p q : ScmRequest) : Prop :=
  match p, q with
  | .mux c i, .mux d o => c < d ∨ c = d ∧ i = true ∧ o = false
  | _, _ => p.rank ≤ q.rank

/-! ### The quiet machine -/

/-- No level acts at the end of a step: none of the MCU is up (R453), and no Output Word flag of a PPU that sends to a
high-speed channel waits for its Resume level (R111). -/
def LevelsIdle (s : State) : Prop :=
  mcuControl s = 0 ∧ s.mcuSwitch = false
    ∧ ∀ (c u : Unit16) (n : Cable), s.cfg.highSpeed[c] = true → muxSource s.cfg c = some (.ppu u n) →
      s.ppus[u].outw[n] = false

/-- No level acts, no event is scheduled and SCM has received no request, so the next step is the CPU's, it need not wait
(R84), and nothing else happens in it. -/
def Quiet (s : State) : Prop := LevelsIdle s ∧ s.sched = [] ∧ s.scmQueue = []

/-- `n` steps of the machine. -/
def steps : Nat → State → Outcome
  | 0, s => .next s
  | n + 1, s =>
    match step s with
    | .next t => steps n t
    | .fault e => .fault e
    | .refused e => .refused e

/-- The machine after a step, but for the step counter. -/
def ticked (s t : State) : State := { t with tick := s.tick + 1 }

/-- From `c` to `d` no register of the exchange package that only an exchange jump may change has changed (R410, R448): RAS,
FLS, RAL, FLL, NEA, EEA, BPA and the mode flags are the same, and no condition flag has been cleared. -/
def ControlKept (c d : Cpu) : Prop :=
  d.ras = c.ras ∧ d.fls = c.fls ∧ d.ral = c.ral ∧ d.fll = c.fll ∧ d.nea = c.nea ∧ d.eea = c.eea ∧ d.bpa = c.bpa
    ∧ (∀ n, 12 ≤ n → d.psd.getLsbD n = c.psd.getLsbD n) ∧ (∀ n, c.psd.getLsbD n = true → d.psd.getLsbD n = true)

/-- The PSD with some of its flags set. -/
def withFlags (s : State) (flags : List PsdFlag) : Word18 :=
  flags.foldl (fun p f => p ||| BitVec.twoPow 18 (psdBit f)) s.cpu.psd

/-! ### What becoming set of SCM Direct Range does to earlier stores (R489) -/

/-- From `s` to `t` nothing of SCM has changed but that a store on record may have been undone: its word then holds what that
store replaced. The record is empty. -/
def LostStores (s t : State) : Prop :=
  t.cpu.recent = []
    ∧ ∀ n, memRead t.scm n = memRead s.scm n ∨ ∃ a : ScmAddr, n = a.toNat ∧ ScmRef.store a (memRead t.scm n) ∈ s.cpu.recent

/-- The effect on SCM where SCM Direct Range is set in `s`: none if it was set before (R36), else that of R489. -/
def RangeEffect (s t : State) : Prop :=
  if flag s .scmDirectRange = true then t.scm = s.scm ∧ t.cpu.recent = s.cpu.recent else LostStores s t

/-! ### The exchange jump as a whole (R412) -/

/-- The sixteen SCM words at `a`, in order. -/
def pkgAt (s : State) (a : ScmAddr) : List Word60 := (List.range 16).map (fun w => memRead s.scm (pkgAddr a w).toNat)

/-- Whether an SCM address is one of the sixteen words at `a`. -/
def inPkg (a : ScmAddr) (n : Nat) : Prop := ∃ w, w < 16 ∧ n = (pkgAddr a w).toNat

/-- The registers that a package holds (10_state.md R41). -/
def sameRegisters (c d : Cpu) : Prop :=
  c.p = d.p ∧ c.ras = d.ras ∧ c.fls = d.fls ∧ c.ral = d.ral ∧ c.fll = d.fll ∧ c.psd = d.psd ∧ c.nea = d.nea ∧ c.eea = d.eea
    ∧ c.bpa = d.bpa ∧ c.a = d.a ∧ c.x = d.x ∧ c.b = d.b

/-- From `s` to `t` the machine has exchanged its registers, with `storedP` for P, for the package at `a`; nothing else
has changed but the step counter. -/
def Exchanged (s t : State) (a : ScmAddr) (storedP : Word18) : Prop :=
  sameRegisters t.cpu (pkgDecode s.cfg.layout (pkgAt s a) s.cpu)
    ∧ sameRegisters (pkgDecode s.cfg.layout (pkgAt t a) s.cpu) { s.cpu with p := storedP }
    ∧ (∀ n, ¬ inPkg a n → memRead t.scm n = memRead s.scm n)
    ∧ t.cpu.iws = [] ∧ t.cpu.parcel = 0 ∧ t.cpu.slip = none ∧ t.cpu.phase = .newInterval ∧ t.cpu.flow = .exited
    ∧ t = { s with cpu := t.cpu, scm := t.scm, tick := t.tick }

/-- In `t` the exchange at `a` that stores `storedP` begins, the machine being otherwise as in `s`; if nothing comes
between its steps, it is complete after 33 of them: 32 references and the load. -/
def Exchanges (s t : State) (a : ScmAddr) (storedP : Word18) : Prop :=
  t = { s with cpu := { s.cpu with phase := t.cpu.phase, flow := .exited, parityLate := false } }
    ∧ ∃ u, steps 33 t = .next u ∧ Exchanged s u a storedP

/-- The layout in which statements about package images are made, all of SCM there, and B0 zero. -/
def PkgReady (s : State) : Prop :=
  s.cfg.layout = Config.defaultLayout ∧ s.cfg.scmWords = 65536 ∧ s.cpu.b[0] = 0

/-! ### The invariant of every state -/

/-- A word memory in canonical form that lists no address from `n` on. -/
abbrev MemOk {w : Nat} (n : Nat) (m : Mem w) : Prop := Memory.wf m ∧ ∀ c ∈ m, c.1 < n

/-- What every CPU state satisfies: B0 holds zero (R24); the instruction word stack has twelve ranks (R27); at most two
stores can still be lost, each made inside the storage field (R489); SLIP keeps its bound (R417); a block copy in progress
stays in both fields (R92, R151); an exchange sequence has written no word that it has not read (R412). -/
structure CpuOk (cfg : Config) (c : Cpu) : Prop where
  b0 : c.b[0] = 0
  stack12 : c.iws.length ≤ 12
  recent2 : c.recent.length ≤ 2
  inField : ∀ a old, ScmRef.store a old ∈ c.recent → ∃ r : Word18, r < c.fls ∧ a = (c.ras + r).setWidth 16
  slipBound : ∀ n m, cfg.errorExitSlip = some n → c.slip = some m → m ≤ n
  copyIn : ∀ r, c.phase = .copying r →
    r.left < 1024 ∧ r.scm.toNat + r.left ≤ c.fls.toNat ∧ r.lcm.toNat + r.left ≤ c.fll.toNat
  readFirst : ∀ x, c.phase = .exchanging x → ∀ w : Fin 16, x.put[w] = true → x.got[w].isSome = true

/-- What every MUX channel satisfies: ASMCNT is a position or the number of positions filled, 0 to 4 (R46, R72); DISCNT
is 0 to 5 (R46); the high-speed ranks are three (R112). -/
structure ChanOk (ch : MuxChan) : Prop where
  asm5 : ch.inp.asmCnt.toNat ≤ 4
  dis5 : ch.out.disCnt.toNat ≤ 5
  ranks3 : ch.out.ranks.length ≤ 3

/-- The invariant: the memories are in canonical form and list no word that does not exist (R80, R88), and the CPU and
every channel are as above. -/
structure Inv (s : State) : Prop where
  scm : MemOk s.cfg.scmWords s.scm
  lcm : MemOk s.cfg.lcmWords s.lcm
  ppu : ∀ u : Unit16, MemOk 4096 s.ppus[u].mem
  cpu : CpuOk s.cfg s.cpu
  mux : ∀ c : Unit16, ChanOk s.mux[c]

/-! ### What a group of instructions computes, as relations

Each constructor is one row of the spec: in the state (or PPU) given, this instruction has this destination and value. -/

/-- 50 to 57: the instruction sets A[i] to r (44 R270 to R277). -/
inductive SetsA (s : State) : Instr → Reg → Word18 → Prop
  | sa50 (i j : Reg) (K : Word18) : SetsA s (.sa50 i j K) i (ocAdd (getA s j) K)
  | sa51 (i j : Reg) (K : Word18) : SetsA s (.sa51 i j K) i (ocAdd (getB s j) K)
  | sa52 (i j : Reg) (K : Word18) : SetsA s (.sa52 i j K) i (ocAdd ((getX s j).extractLsb' 0 18) K)
  | sa53 (i j k : Reg) : SetsA s (.sa53 i j k) i (ocAdd ((getX s j).extractLsb' 0 18) (getB s k))
  | sa54 (i j k : Reg) : SetsA s (.sa54 i j k) i (ocAdd (getA s j) (getB s k))
  | sa55 (i j k : Reg) : SetsA s (.sa55 i j k) i (ocSub (getA s j) (getB s k))
  | sa56 (i j k : Reg) : SetsA s (.sa56 i j k) i (ocAdd (getB s j) (getB s k))
  | sa57 (i j k : Reg) : SetsA s (.sa57 i j k) i (ocSub (getB s j) (getB s k))

/-- 60 to 67: the instruction sets B[i] to r (44 R284 to R291). -/
inductive SetsB (s : State) : Instr → Reg → Word18 → Prop
  | sb60 (i j : Reg) (K : Word18) : SetsB s (.sb60 i j K) i (ocAdd (getA s j) K)
  | sb61 (i j : Reg) (K : Word18) : SetsB s (.sb61 i j K) i (ocAdd (getB s j) K)
  | sb62 (i j : Reg) (K : Word18) : SetsB s (.sb62 i j K) i (ocAdd ((getX s j).extractLsb' 0 18) K)
  | sb63 (i j k : Reg) : SetsB s (.sb63 i j k) i (ocAdd ((getX s j).extractLsb' 0 18) (getB s k))
  | sb64 (i j k : Reg) : SetsB s (.sb64 i j k) i (ocAdd (getA s j) (getB s k))
  | sb65 (i j k : Reg) : SetsB s (.sb65 i j k) i (ocSub (getA s j) (getB s k))
  | sb66 (i j k : Reg) : SetsB s (.sb66 i j k) i (ocAdd (getB s j) (getB s k))
  | sb67 (i j k : Reg) : SetsB s (.sb67 i j k) i (ocSub (getB s j) (getB s k))

/-- 70 to 77: the instruction sets X[i] to r, sign extended (44 R292 to R299). -/
inductive SetsX (s : State) : Instr → Reg → Word18 → Prop
  | sx70 (i j : Reg) (K : Word18) : SetsX s (.sx70 i j K) i (ocAdd (getA s j) K)
  | sx71 (i j : Reg) (K : Word18) : SetsX s (.sx71 i j K) i (ocAdd (getB s j) K)
  | sx72 (i j : Reg) (K : Word18) : SetsX s (.sx72 i j K) i (ocAdd ((getX s j).extractLsb' 0 18) K)
  | sx73 (i j k : Reg) : SetsX s (.sx73 i j k) i (ocAdd ((getX s j).extractLsb' 0 18) (getB s k))
  | sx74 (i j k : Reg) : SetsX s (.sx74 i j k) i (ocAdd (getA s j) (getB s k))
  | sx75 (i j k : Reg) : SetsX s (.sx75 i j k) i (ocSub (getA s j) (getB s k))
  | sx76 (i j k : Reg) : SetsX s (.sx76 i j k) i (ocAdd (getB s j) (getB s k))
  | sx77 (i j k : Reg) : SetsX s (.sx77 i j k) i (ocSub (getB s j) (getB s k))

/-- 030 to 037 and 04 to 07: the instruction branches to K exactly if the condition holds (41 R173 to R184). The ordered
tests of 06 and 07 are over the values, with negative zero just below positive zero (R185). -/
inductive BranchesIf (s : State) : Instr → Prop → Word18 → Prop
  | zr030 (j : Reg) (K : Word18) : BranchesIf s (.zr030 j K) (getX s j = 0 ∨ getX s j = BitVec.allOnes 60) K
  | nz031 (j : Reg) (K : Word18) : BranchesIf s (.nz031 j K) (getX s j ≠ 0 ∧ getX s j ≠ BitVec.allOnes 60) K
  | pl032 (j : Reg) (K : Word18) : BranchesIf s (.pl032 j K) ((getX s j).getLsbD 59 = false) K
  | ng033 (j : Reg) (K : Word18) : BranchesIf s (.ng033 j K) ((getX s j).getLsbD 59 = true) K
  | ir034 (j : Reg) (K : Word18) : BranchesIf s (.ir034 j K)
      ((getX s j).extractLsb' 48 12 ∉ [0o3777#12, 0o4000#12, 0o1777#12, 0o6000#12]) K
  | or035 (j : Reg) (K : Word18) : BranchesIf s (.or035 j K)
      ((getX s j).extractLsb' 48 12 ∈ [0o3777#12, 0o4000#12, 0o1777#12, 0o6000#12]) K
  | df036 (j : Reg) (K : Word18) : BranchesIf s (.df036 j K) ((getX s j).extractLsb' 48 12 ∉ [0o1777#12, 0o6000#12]) K
  | id037 (j : Reg) (K : Word18) : BranchesIf s (.id037 j K) ((getX s j).extractLsb' 48 12 ∈ [0o1777#12, 0o6000#12]) K
  | eq04 (i j : Reg) (K : Word18) : BranchesIf s (.eq04 i j K) (getB s i = getB s j) K
  | ne05 (i j : Reg) (K : Word18) : BranchesIf s (.ne05 i j K) (getB s i ≠ getB s j) K
  | ge06 (i j : Reg) (K : Word18) : BranchesIf s (.ge06 i j K)
      (ocVal (getB s j) ≤ ocVal (getB s i) ∧ ¬ (getB s i = BitVec.allOnes 18 ∧ getB s j = 0)) K
  | lt07 (i j : Reg) (K : Word18) : BranchesIf s (.lt07 i j K)
      (ocVal (getB s i) < ocVal (getB s j) ∨ (getB s i = BitVec.allOnes 18 ∧ getB s j = 0)) K

/-- The eleven floating instructions: the instruction delivers the result r of its unit's algorithm (43 R225 to R227) to
X[i]; for 41 the weight of the round bit is `roundWeight` (R241). -/
inductive FloatsTo (s : State) : Instr → Reg → FpResult → Prop
  | fx30 (i j k : Reg) : FloatsTo s (.fx30 i j k) i (fadd s.cfg.faddFarCopy (getX s j) (getX s k) false false false)
  | fx31 (i j k : Reg) : FloatsTo s (.fx31 i j k) i (fadd s.cfg.faddFarCopy (getX s j) (getX s k) true false false)
  | dx32 (i j k : Reg) : FloatsTo s (.dx32 i j k) i (fadd s.cfg.faddFarCopy (getX s j) (getX s k) false true false)
  | dx33 (i j k : Reg) : FloatsTo s (.dx33 i j k) i (fadd s.cfg.faddFarCopy (getX s j) (getX s k) true true false)
  | rx34 (i j k : Reg) : FloatsTo s (.rx34 i j k) i (fadd s.cfg.faddFarCopy (getX s j) (getX s k) false false true)
  | rx35 (i j k : Reg) : FloatsTo s (.rx35 i j k) i (fadd s.cfg.faddFarCopy (getX s j) (getX s k) true false true)
  | fx40 (i j k : Reg) : FloatsTo s (.fx40 i j k) i (fmul (getX s j) (getX s k) false 0)
  | rx41 (i j k : Reg) : FloatsTo s (.rx41 i j k) i (fmul (getX s j) (getX s k) false (roundWeight s (getX s j) (getX s k)))
  | dx42 (i j k : Reg) : FloatsTo s (.dx42 i j k) i (fmul (getX s j) (getX s k) true 0)
  | fx44 (i j k : Reg) : FloatsTo s (.fx44 i j k) i (fdiv (getX s j) (getX s k) false)
  | rx45 (i j k : Reg) : FloatsTo s (.rx45 i j k) i (fdiv (getX s j) (getX s k) true)

/-- The two operands of a floating instruction, (Xj) and (Xk). -/
inductive FloatOperands (s : State) : Instr → Word60 → Word60 → Prop
  | fx30 (i j k : Reg) : FloatOperands s (.fx30 i j k) (getX s j) (getX s k)
  | fx31 (i j k : Reg) : FloatOperands s (.fx31 i j k) (getX s j) (getX s k)
  | dx32 (i j k : Reg) : FloatOperands s (.dx32 i j k) (getX s j) (getX s k)
  | dx33 (i j k : Reg) : FloatOperands s (.dx33 i j k) (getX s j) (getX s k)
  | rx34 (i j k : Reg) : FloatOperands s (.rx34 i j k) (getX s j) (getX s k)
  | rx35 (i j k : Reg) : FloatOperands s (.rx35 i j k) (getX s j) (getX s k)
  | fx40 (i j k : Reg) : FloatOperands s (.fx40 i j k) (getX s j) (getX s k)
  | rx41 (i j k : Reg) : FloatOperands s (.rx41 i j k) (getX s j) (getX s k)
  | dx42 (i j k : Reg) : FloatOperands s (.dx42 i j k) (getX s j) (getX s k)
  | fx44 (i j k : Reg) : FloatOperands s (.fx44 i j k) (getX s j) (getX s k)
  | rx45 (i j k : Reg) : FloatOperands s (.rx45 i j k) (getX s j) (getX s k)

/-- The signed coefficient of a floating word. -/
def signedCoef (w : Word60) : Int := if w.msb then -(fpCoef w : Int) else fpCoef w

/-- The signed coefficient in half units, with a round bit just below its lowest bit if `r` (43 R234). -/
def roundedCoef (w : Word60) (r : Bool) : Int :=
  if w.msb then -(2 * (fpCoef w : Int) + r.toNat) else 2 * (fpCoef w : Int) + r.toNat

/-- PPU 10 to 23, 30 to 33, 40 to 43, 50 to 53: an instruction of n words that sets A to v and stores nothing (45 R318 to
R329, R331 to R334, R339 to R342, R347 to R350). -/
inductive PpuSetsA (u : Ppu) : Instr → Nat → Word18 → Prop
  | shn10Left (d : BitVec 6) (h : d.toNat < 32) : PpuSetsA u (.shn10 d) 1 (u.a.rotateLeft (d.toNat % 18))
  | shn10Right (d : BitVec 6) (h : 32 ≤ d.toNat) : PpuSetsA u (.shn10 d) 1 (u.a >>> (63 - d.toNat))
  | lmn11 (d : BitVec 6) : PpuSetsA u (.lmn11 d) 1 (u.a ^^^ (0#12 ++ d))
  | lpn12 (d : BitVec 6) : PpuSetsA u (.lpn12 d) 1 (u.a &&& (0#12 ++ d))
  | scn13 (d : BitVec 6) : PpuSetsA u (.scn13 d) 1 (u.a &&& ~~~(0#12 ++ d))
  | ldn14 (d : BitVec 6) : PpuSetsA u (.ldn14 d) 1 (0#12 ++ d)
  | lcn15 (d : BitVec 6) : PpuSetsA u (.lcn15 d) 1 (~~~(0#12 ++ d))
  | adn16 (d : BitVec 6) : PpuSetsA u (.adn16 d) 1 (ocAdd u.a (0#12 ++ d))
  | sbn17 (d : BitVec 6) : PpuSetsA u (.sbn17 d) 1 (ocSub u.a (0#12 ++ d))
  | ldc20 (d : BitVec 6) (m : Word12) : PpuSetsA u (.ldc20 d m) 2 (d ++ m)
  | adc21 (d : BitVec 6) (m : Word12) : PpuSetsA u (.adc21 d m) 2 (ocAdd u.a (d ++ m))
  | lpc22 (d : BitVec 6) (m : Word12) : PpuSetsA u (.lpc22 d m) 2 (u.a &&& (d ++ m))
  | lmc23 (d : BitVec 6) (m : Word12) : PpuSetsA u (.lmc23 d m) 2 (u.a ^^^ (d ++ m))
  | ldd30 (d : BitVec 6) : PpuSetsA u (.ldd30 d) 1 (0#6 ++ u.read (0#6 ++ d))
  | add31 (d : BitVec 6) : PpuSetsA u (.add31 d) 1 (ocAdd u.a (0#6 ++ u.read (0#6 ++ d)))
  | sbd32 (d : BitVec 6) : PpuSetsA u (.sbd32 d) 1 (ocSub u.a (0#6 ++ u.read (0#6 ++ d)))
  | lmd33 (d : BitVec 6) : PpuSetsA u (.lmd33 d) 1 (u.a ^^^ (0#6 ++ u.read (0#6 ++ d)))
  | ldi40 (d : BitVec 6) : PpuSetsA u (.ldi40 d) 1 (0#6 ++ u.read (u.read (0#6 ++ d)))
  | adi41 (d : BitVec 6) : PpuSetsA u (.adi41 d) 1 (ocAdd u.a (0#6 ++ u.read (u.read (0#6 ++ d))))
  | sbi42 (d : BitVec 6) : PpuSetsA u (.sbi42 d) 1 (ocSub u.a (0#6 ++ u.read (u.read (0#6 ++ d))))
  | lmi43 (d : BitVec 6) : PpuSetsA u (.lmi43 d) 1 (u.a ^^^ (0#6 ++ u.read (u.read (0#6 ++ d))))
  | ldm50 (d : BitVec 6) (m : Word12) : PpuSetsA u (.ldm50 d m) 2 (0#6 ++ u.read (addrIndexed u d m))
  | adm51 (d : BitVec 6) (m : Word12) : PpuSetsA u (.adm51 d m) 2 (ocAdd u.a (0#6 ++ u.read (addrIndexed u d m)))
  | sbm52 (d : BitVec 6) (m : Word12) : PpuSetsA u (.sbm52 d m) 2 (ocSub u.a (0#6 ++ u.read (addrIndexed u d m)))
  | lmm53 (d : BitVec 6) (m : Word12) : PpuSetsA u (.lmm53 d m) 2 (u.a ^^^ (0#6 ++ u.read (addrIndexed u d m)))

/-- PPU 34 to 37, 44 to 47, 54 to 57: an instruction of n words that sets A to v and stores v[11:0] at address a; for the
stores proper v is the A that it had (45 R335 to R338, R343 to R346, R351 to R354). -/
inductive PpuStoresAt (u : Ppu) : Instr → Nat → Word12 → Word18 → Prop
  | std34 (d : BitVec 6) : PpuStoresAt u (.std34 d) 1 (0#6 ++ d) u.a
  | rad35 (d : BitVec 6) : PpuStoresAt u (.rad35 d) 1 (0#6 ++ d) (ocAdd u.a (0#6 ++ u.read (0#6 ++ d)))
  | aod36 (d : BitVec 6) : PpuStoresAt u (.aod36 d) 1 (0#6 ++ d) (ocAdd (0#6 ++ u.read (0#6 ++ d)) 1)
  | sod37 (d : BitVec 6) : PpuStoresAt u (.sod37 d) 1 (0#6 ++ d) (ocSub (0#6 ++ u.read (0#6 ++ d)) 1)
  | sti44 (d : BitVec 6) : PpuStoresAt u (.sti44 d) 1 (u.read (0#6 ++ d)) u.a
  | rai45 (d : BitVec 6) : PpuStoresAt u (.rai45 d) 1 (u.read (0#6 ++ d)) (ocAdd u.a (0#6 ++ u.read (u.read (0#6 ++ d))))
  | aoi46 (d : BitVec 6) : PpuStoresAt u (.aoi46 d) 1 (u.read (0#6 ++ d)) (ocAdd (0#6 ++ u.read (u.read (0#6 ++ d))) 1)
  | soi47 (d : BitVec 6) : PpuStoresAt u (.soi47 d) 1 (u.read (0#6 ++ d)) (ocSub (0#6 ++ u.read (u.read (0#6 ++ d))) 1)
  | stm54 (d : BitVec 6) (m : Word12) : PpuStoresAt u (.stm54 d m) 2 (addrIndexed u d m) u.a
  | ram55 (d : BitVec 6) (m : Word12) :
      PpuStoresAt u (.ram55 d m) 2 (addrIndexed u d m) (ocAdd u.a (0#6 ++ u.read (addrIndexed u d m)))
  | aom56 (d : BitVec 6) (m : Word12) :
      PpuStoresAt u (.aom56 d m) 2 (addrIndexed u d m) (ocAdd (0#6 ++ u.read (addrIndexed u d m)) 1)
  | som57 (d : BitVec 6) (m : Word12) :
      PpuStoresAt u (.som57 d m) 2 (addrIndexed u d m) (ocSub (0#6 ++ u.read (addrIndexed u d m)) 1)

/-- PPU 01, 03 to 07, 60 to 67: an instruction of n words that jumps to t exactly if the condition holds, and does nothing
else (45 R311, R313 to R317; 46 R382 to R389). -/
inductive PpuJumpsIf (u : Ppu) : Instr → Nat → Prop → Word12 → Prop
  | ljm01 (d : BitVec 6) (m : Word12) : PpuJumpsIf u (.ljm01 d m) 2 True (addrIndexed u d m)
  | ujn03 (d : BitVec 6) : PpuJumpsIf u (.ujn03 d) 1 True (ocAdd u.p (d.signExtend 12))
  | zjn04 (d : BitVec 6) : PpuJumpsIf u (.zjn04 d) 1 (u.a = 0) (ocAdd u.p (d.signExtend 12))
  | njn05 (d : BitVec 6) : PpuJumpsIf u (.njn05 d) 1 (u.a ≠ 0) (ocAdd u.p (d.signExtend 12))
  | pjn06 (d : BitVec 6) : PpuJumpsIf u (.pjn06 d) 1 (u.a.getLsbD 17 = false) (ocAdd u.p (d.signExtend 12))
  | mjn07 (d : BitVec 6) : PpuJumpsIf u (.mjn07 d) 1 (u.a.getLsbD 17 = true) (ocAdd u.p (d.signExtend 12))
  | fim60 (d : BitVec 6) (m : Word12) : PpuJumpsIf u (.fim60 d m) 2 (u.inw[cableOf d] = true) m
  | eim61 (d : BitVec 6) (m : Word12) : PpuJumpsIf u (.eim61 d m) 2 (u.inw[cableOf d] = false) m
  | irm62 (d : BitVec 6) (m : Word12) : PpuJumpsIf u (.irm62 d m) 2 (u.inr[cableOf d] = true) m
  | nim63 (d : BitVec 6) (m : Word12) : PpuJumpsIf u (.nim63 d m) 2 (u.inr[cableOf d] = false) m
  | fom64 (d : BitVec 6) (m : Word12) : PpuJumpsIf u (.fom64 d m) 2 (u.outw[cableOf d] = true) m
  | eom65 (d : BitVec 6) (m : Word12) : PpuJumpsIf u (.eom65 d m) 2 (u.outw[cableOf d] = false) m
  | orm66 (d : BitVec 6) (m : Word12) : PpuJumpsIf u (.orm66 d m) 2 (u.outr[cableOf d] = true) m
  | nom67 (d : BitVec 6) (m : Word12) : PpuJumpsIf u (.nom67 d m) 2 (u.outr[cableOf d] = false) m

/-! ### Launch and end of a run (R463) -/

/-- Write sixteen words at `a`, from word `n` on. -/
def placePkg (s : State) (a : ScmAddr) : Nat → List Word60 → State
  | _, [] => s
  | n, v :: vs => placePkg (scmPut s (pkgAddr a n) v) a (n + 1) vs

/-- The launch of a program: sixteen words at `l`, the rest of the memories being those of `s`, and the exchange jump
there from a CPU state that is otherwise unspecified, as at a dead start. -/
def launch (s : State) (l : ScmAddr) (pkg : List Word60) : State := exchangeJump (placePkg s l 0 pkg) l 0 .deadStart

/-- The default `RUN_END_XJ_ADDR`: the NEA and EEA fields of the launched package. -/
def runEndAddrs (l : PkgLayout) (pkg : List Word60) : List ScmAddr :=
  [BitVec.ofNat 16 (getField pkg l.nea 16), BitVec.ofNat 16 (getField pkg l.eea 16)]

/-- Where the launched program's state is: an interrupt leaves it in a package area for a while. -/
inductive Whereabouts
  /-- in the registers: the program runs -/
  | running
  /-- in the package area at `a` -/
  | parked (a : ScmAddr)
  /-- nowhere: a CPU dead start has discarded it -/
  | lost
deriving DecidableEq, Repr

/-- Where it is after the exchange `x`, which swaps the registers and one area. R463 is silent on a CPU dead start in the
middle of a run and on an area that is overwritten: a dead start loses a running program for ever and leaves a parked one
(the launch too) parked, or running if its area is at 0; an area stays the program's whatever is written there, by an
exchange cut short too (DESIGN CHOICE, assumption 40). -/
def Whereabouts.after (w : Whereabouts) (x : Exchange) : Whereabouts :=
  match w with
  | .running => if x.initiator = .deadStart then .lost else .parked x.addr
  | .parked a => if a = x.addr then .running else .parked a
  | .lost => .lost

/-- The step from `s` to `t` completes the exchange `x`. -/
def Completes (s t : State) (x : Exchange) : Prop := s.cpu.phase = .exchanging x ∧ t.cpu.phase = .newInterval

/-- The exchange `x` ends the run: the program itself made it, by 013 or by an error exit, and it goes to one of `ends`. -/
def endsRun (ends : List ScmAddr) (w : Whereabouts) (x : Exchange) : Prop :=
  w = .running ∧ (x.initiator = .exitInstruction ∨ x.initiator = .errorExit) ∧ x.addr ∈ ends

/-- The word that the step from `s` stores in an exchange sequence, if it stores one: its place in the package and what
the CPU sends to SCM, whether or not the address exists. -/
def wordStored (s : State) : Option (Fin 16 × Word60) :=
  if nextEvent s = .cpu ∧ cpuHeld s = false ∧ cpuMustWait (popEvent s) = false then
    match s.cpu.phase with
    | .exchanging x => (exchangeWord s x).bind (fun w => if x.got[w].isNone then none else some (w, exchangeOut s x w))
    | _ => none
  else none

/-- The words stored by the exchange in progress, after the step from `s`. -/
def noteStored (words : Vector Word60 16) (s : State) : Vector Word60 16 :=
  match wordStored s with
  | some (w, v) => words.set w v
  | none => words

/-- The run launched in `s0` at `l` reaches a state, where the program's state is as given, the words given have been
stored last at each place of a package, and the run has not ended before. -/
inductive RunsTo (ends : List ScmAddr) (s0 : State) (l : ScmAddr) : State → Whereabouts → Vector Word60 16 → Prop
  | start (v : Vector Word60 16) : RunsTo ends s0 l s0 (.parked l) v
  | move {s t : State} {w : Whereabouts} {v : Vector Word60 16} (h : RunsTo ends s0 l s w v) (hs : step s = .next t)
      (hx : ∀ x, ¬ Completes s t x) : RunsTo ends s0 l t w (noteStored v s)
  | swap {s t : State} {w : Whereabouts} {v : Vector Word60 16} {x : Exchange} (h : RunsTo ends s0 l s w v)
      (hs : step s = .next t) (hx : Completes s t x) (he : ¬ endsRun ends w x) :
      RunsTo ends s0 l t (w.after x) (noteStored v s)

/-- The result of a run: the sixteen words that the terminating exchange jump stores, SCM and LCM. -/
structure RunResult where
  words : List Word60
  scm : Mem 60
  lcm : Mem 60
deriving DecidableEq, Repr

/-- The run launched in `s0` at `l` ends with the exchange `x`, the first that ends it, and with the result `r`. -/
def RunEnds (ends : List ScmAddr) (s0 : State) (l : ScmAddr) (x : Exchange) (r : RunResult) : Prop :=
  ∃ s t w v, RunsTo ends s0 l s w v ∧ step s = .next t ∧ Completes s t x ∧ endsRun ends w x
    ∧ r = ⟨v.toList, t.scm, t.lcm⟩

/-- A normal end of the run of the package `pkg`: through NEA, with no cause of R416 in the stored PSD. An arithmetic flag
whose mode flag is clear is stored but requests nothing (R416), and does not keep an end from being normal: R463 does not say
whether "no condition flag of rule R416 stored" excludes it (DESIGN CHOICE, assumption 39). -/
def normalEnd (l : PkgLayout) (pkg : List Word60) (x : Exchange) (r : RunResult) : Prop :=
  x.addr = BitVec.ofNat 16 (getField pkg l.nea 16) ∧ errorRequest (BitVec.ofNat 18 (getField r.words l.psd 18)) = false

/-- An error end: through EEA. The stored PSD and P name the cause (R434). Where NEA and EEA are one address R463 does not
say which of the two an end is: an end with no cause stored is then normal and not an error end (DESIGN CHOICE, assumption
39). -/
def errorEnd (l : PkgLayout) (pkg : List Word60) (x : Exchange) (r : RunResult) : Prop :=
  x.addr = BitVec.ofNat 16 (getField pkg l.eea 16) ∧ ¬ normalEnd l pkg x r

/-- The run of a PPU program has ended, with its result A, P and the memory. -/
def PpuEnds (s : State) (u : Unit16) (a : Word18) (p : Word12) (m : Mem 12) : Prop :=
  s.ppus[u].stopped = true ∧ a = s.ppus[u].a ∧ p = s.ppus[u].p ∧ m = s.ppus[u].mem

/-- A safe step of the machine: it has a next state. -/
def StepSafe (s : State) : Prop := ∃ t, step s = .next t

end Sys2Proof.Machine
end

