-- ==== Sys2Proof/Certificates/Slice0/Obligations.lean ====
section
/-!
DEFINITION. The statements for the provers. OBLIGATIONS.json gives each its tier, its kind and the rules it rests on.
-/

open Sys2Proof Sys2Proof.Machine

/-! ### The whole machine -/

/-- The state right after reset satisfies the invariant. -/
def Obligations.ResetMeetsInvariant : Prop := Inv State.reset

/-- Every step, of any agent, in any state that satisfies the invariant, keeps it. -/
def Obligations.EveryStepKeepsInvariant : Prop := ∀ s t : State, Inv s → step s = .next t → Inv t

/-- Decoding the encoding of any well-formed instruction gives that instruction, with every operand value. -/
def Obligations.DecodeOfEncodeIsTheInstruction : Prop :=
  ∀ (i : Instr) (exitMode : Bool), i.WellFormed → i.namedUnder exitMode = true → decode exitMode (encode i) = .ok i

/-- Words written out from the encoding tables decode to the instructions they stand for. -/
def Obligations.WrittenWordsDecode : Prop :=
  decode false (.cpu 0o10120 none) = .ok (.bx10 1 2)
    ∧ decode false (.cpu 0o05123 (some 0o45670)) = .ok (.ne05 1 2 0o345670)
    ∧ decode false (.cpu 0o01300 none) = .ok .mj013Nea
    ∧ decode true (.cpu 0o01320 (some 0o00020)) = .ok (.mj013Bk 2 0o20)
    ∧ decode false (.cpu 0o01605 none) = .ok (.ri0160 5)
    ∧ decode false (.cpu 0o01625 none) = .ok (.ib016 2 5)
    ∧ decode false (.cpu 0o20312 none) = .ok (.lx20 3 0o12)
    ∧ decode false (.cpu 0o52627 (some 0o77776)) = .ok (.sa52 6 2 0o777776)
    ∧ decode false (.ppu 0o1425 none) = .ok (.ldn14 0o25)
    ∧ decode false (.ppu 0o2025 (some 0o0100)) = .ok (.ldc20 0o25 0o100)
    ∧ decode false (.ppu 0o7102 (some 0o1000)) = .ok (.iam71 0o02 0o1000)
    ∧ decode false (.ppu 0o7777 none) = .ok .esn77

/-- The instruction at PARCEL of the current word is the one that a CPU step runs, where it need not wait for SCM: its request is
served, it is issued, its meaning is applied, and what follows the instruction is done; then the MCU's levels act and the step
counter advances. -/
def Obligations.CpuStepRunsDecodedInstruction : Prop :=
  ∀ (s : State) (p q : Parcel) (i : Instr),
    nextEvent s = .cpu → cpuHeld s = false → cpuMustWait (popEvent s) = false → s.cpu.phase = .inWord →
    p = s.cpu.ciw.extractLsb' (45 - 15 * s.cpu.parcel.val) 15 →
    q = (if s.cpu.parcel.val = 3 then 0 else s.cpu.ciw.extractLsb' (30 - 15 * s.cpu.parcel.val) 15) →
    i = decodeCpu (flag s .exitMode) p q →
    step s = onNext (exec i (issue (cpuServed (popEvent s)) i))
      (fun t => endStep (finishInstr t (if isLong (flag s .exitMode) p then 2 else 1)))

/-- With an empty stack, no test firing, no parity error and the word installed, a CPU step that makes the word at P
current, where it need not wait for SCM, reads it at (RAS + P)[15:0] and runs the instruction in its first parcel. -/
def Obligations.CpuStepFetchesTheWordAtP : Prop :=
  ∀ (s : State) (w : Word60) (i : Instr),
    nextEvent s = .cpu → cpuHeld s = false → cpuMustWait (popEvent s) = false →
    s.cpu.phase = .fetch → s.cpu.iws = [] → NoParity s →
    s.cpu.p ≠ 0 → s.cpu.p < s.cpu.fls → s.cpu.p ≠ s.cpu.bpa → scmExists s (scmAbs s s.cpu.p) = true →
    w = memRead s.scm ((s.cpu.ras + s.cpu.p).setWidth 16 : ScmAddr).toNat →
    i = decodeCpu (flag s .exitMode) (w.extractLsb' 45 15) (w.extractLsb' 30 15) →
    ∃ u, step s = onNext (exec i (issue u i))
        (fun t => endStep (finishInstr t (if isLong (flag s .exitMode) (w.extractLsb' 45 15) then 2 else 1)))
      ∧ u.cpu.ciw = w ∧ u.cpu.parcel = 0 ∧ u.cpu.phase = .inWord
      ∧ u = { cpuServed (popEvent s) with cpu := { s.cpu with
            ciw := w, parcel := 0, phase := .inWord, iws := u.cpu.iws, issued := 0, inc30 := 0, branched := false, seqInc := false } }

/-- The words at P and P + 1 of a PPU's memory hold the instruction that its step runs. -/
def Obligations.PpuStepRunsDecodedInstruction : Prop :=
  ∀ (s : State) (u : Unit16) (w m : Word12) (i : Instr),
    nextEvent s = .ppu u → u.val < s.cfg.ppuCount → deadStartUp s u = false → s.ppus[u].stopped = false →
    s.ppus[u].iop = .idle → s.ppus[u].p.toNat < 0o7777 →
    w = s.ppus[u].read s.ppus[u].p → m = s.ppus[u].read (s.ppus[u].p + 1) → i = decodePpu w m →
    step s = onNext (exec i (setPpu { popEvent s with cur := u } { s.ppus[u] with fd := w })) endStep

/-- What reset, and a dead start level that is up, leave in a PPU: the dead start load from input cable 0 in progress, its
registers forced and every channel flag clear. The level keeps OUTDATA and the memory but for one word, that of an instruction
cut short (which one that is, is the model's reading: assumption 21), clears the output flags of every PPU that sends to this
one, and lets it take no step; with the dump bit up too the dump is in progress. Once the dead start bit is down, the dump
bit turns a forced load into the dump and touches neither registers, memory nor input flags. The sequence of the two bits is
the spec's decision D36 (assumption 23). -/
def Obligations.ResetLeavesPpusLoading : Prop :=
  (∀ u : Unit16, ∀ c : Cable,
    State.reset.ppus[u].a = 0o007777 ∧ State.reset.ppus[u].p = 0 ∧ State.reset.ppus[u].q = 0
      ∧ State.reset.ppus[u].iop = .inBlock 0 true true ∧ State.reset.ppus[u].stopped = false
      ∧ State.reset.ppus[u].inw[c] = false ∧ State.reset.ppus[u].inr[c] = false
      ∧ State.reset.ppus[u].outw[c] = false ∧ State.reset.ppus[u].outr[c] = false)
  ∧ (∀ (s : State) (u : Unit16) (dump : Bool) (q : Ppu), deadStartUp s u = true → dump = (decide (u ≠ 0) && mcuBit s 1) →
    q = (settle s).ppus[u] →
    q.a = 0o007777 ∧ q.p = 0 ∧ q.q = 0 ∧ q.x = 0 ∧ q.k = 1 ∧ q.stopped = false
      ∧ q.fd = (if dump then 0o7300 else 0o7100)
      ∧ q.iop = (if dump then .outBlock 0 true else .inBlock 0 true true)
      ∧ (∀ c : Cable, q.inw[c] = false ∧ q.inr[c] = false ∧ q.outw[c] = false ∧ q.outr[c] = false)
      ∧ q.outData = s.ppus[u].outData
      ∧ q.parErr = (if mcuBit s (if u = 0 then 6 else 0) = true then 0 else s.ppus[u].parErr)
      ∧ (∀ b : Word12, s.ppus[u].storing s.cfg.pWrap ≠ some b → q.read b = s.ppus[u].read b)
      ∧ (∀ (n m : Cable) (v : Unit16), farTx s (.ppu u n) = some (.ppu v m) →
          (settle s).ppus[v].outw[m] = false ∧ (settle s).ppus[v].outr[m] = false)
      ∧ (nextEvent s = .ppu u → step s = .next (endStep (popEvent s))))
  ∧ ∀ (s : State) (u : Unit16) (q : Ppu), scanTarget s = some u → mcuBit s 2 = false → mcuBit s 1 = true →
    q = (settle s).ppus[u] →
    ((∃ c first, s.ppus[u].iop = .inBlock c first true) → q.iop = .outBlock 0 true ∧ q.fd = 0o7300)
      ∧ ((∀ c first, s.ppus[u].iop ≠ .inBlock c first true) → q.iop = s.ppus[u].iop ∧ q.fd = s.ppus[u].fd)
      ∧ q.a = s.ppus[u].a ∧ q.p = s.ppus[u].p ∧ q.q = s.ppus[u].q ∧ q.mem = s.ppus[u].mem
      ∧ q.outData = s.ppus[u].outData ∧ q.inw = s.ppus[u].inw ∧ q.inr = s.ppus[u].inr

/-- After a dead start the CPU makes the exchange jump to absolute address 0: if nothing comes between its 34 steps (the
beginning, 32 references and the load), the registers are those of the package there, and the next step begins an
execution interval. -/
def Obligations.DeadStartExchangesAtZero : Prop :=
  ∀ s : State, Quiet s → PkgReady s → NoParity s → s.cpu.phase = .deadStart →
    ∃ t, steps 34 s = .next t ∧ sameRegisters t.cpu (pkgDecode s.cfg.layout (pkgAt s 0) s.cpu)
      ∧ t.cpu.phase = .newInterval ∧ t.cpu.iws = [] ∧ t.cpu.parcel = 0 ∧ t.cpu.slip = none
      ∧ t = { s with cpu := t.cpu, scm := t.scm, tick := s.tick + 34 }
      ∧ (∀ n, ¬ inPkg 0 n → memRead t.scm n = memRead s.scm n)

/-- Addition and subtraction in ones complement, at any width: the result is the sum or difference modulo 2^w - 1, and
it is negative zero in one case only; where the exact result is representable, it is the result. -/
def Obligations.OnesComplementAdderIsModular : Prop :=
  ∀ (w : Nat) (a b : BitVec w), 0 < w →
    ((ocAdd a b).toNat ≡ a.toNat + b.toNat [MOD 2 ^ w - 1])
      ∧ (ocAdd a b = BitVec.allOnes w ↔ a = BitVec.allOnes w ∧ b = BitVec.allOnes w)
      ∧ ((ocSub a b).toNat + b.toNat ≡ a.toNat [MOD 2 ^ w - 1])
      ∧ (ocSub a b = BitVec.allOnes w ↔ a = BitVec.allOnes w ∧ b = 0)
      ∧ ((ocVal a + ocVal b).natAbs < 2 ^ (w - 1) → ocVal (ocAdd a b) = ocVal a + ocVal b)
      ∧ ((ocVal a - ocVal b).natAbs < 2 ^ (w - 1) → ocVal (ocSub a b) = ocVal a - ocVal b)

/-! ### The CPU's register instructions -/

/-- 10 to 17, bit by bit; nothing but X[i] changes. -/
def Obligations.BooleanInstructionsBitByBit : Prop :=
  ∀ (s : State) (i j k : Reg),
    (∃ t, exec (.bx10 i j) s = .next t ∧ OnlyX s t i ∧ getX t i = getX s j)
    ∧ (∃ t, exec (.bx11 i j k) s = .next t ∧ OnlyX s t i
        ∧ ∀ n, (getX t i).getLsbD n = ((getX s j).getLsbD n && (getX s k).getLsbD n))
    ∧ (∃ t, exec (.bx12 i j k) s = .next t ∧ OnlyX s t i
        ∧ ∀ n, (getX t i).getLsbD n = ((getX s j).getLsbD n || (getX s k).getLsbD n))
    ∧ (∃ t, exec (.bx13 i j k) s = .next t ∧ OnlyX s t i
        ∧ ∀ n, (getX t i).getLsbD n = ((getX s j).getLsbD n != (getX s k).getLsbD n))
    ∧ (∃ t, exec (.bx14 i k) s = .next t ∧ OnlyX s t i ∧ ∀ n < 60, (getX t i).getLsbD n = !(getX s k).getLsbD n)
    ∧ (∃ t, exec (.bx15 i j k) s = .next t ∧ OnlyX s t i
        ∧ ∀ n < 60, (getX t i).getLsbD n = ((getX s j).getLsbD n && !(getX s k).getLsbD n))
    ∧ (∃ t, exec (.bx16 i j k) s = .next t ∧ OnlyX s t i
        ∧ ∀ n < 60, (getX t i).getLsbD n = ((getX s j).getLsbD n || !(getX s k).getLsbD n))
    ∧ (∃ t, exec (.bx17 i j k) s = .next t ∧ OnlyX s t i
        ∧ ∀ n < 60, (getX t i).getLsbD n = ((getX s j).getLsbD n == (getX s k).getLsbD n))

/-- 20 to 23 and 43, bit by bit: a left shift is circular modulo 60, a right shift drops bits and copies the sign; 22 and 23
choose by the sign of (Bj), with six bits of the count for a left shift and twelve for a right one; 43 forms jk ones from
the high end. The spec marks as derived what a right count of exactly 60 does (R201, R202 e), and that a left count of 60 to
63 by (Bj) acts as 0 to 3 (R202 a, which R203 mirrors). -/
def Obligations.ShiftsAndMaskBitByBit : Prop :=
  ∀ (s : State) (i j k : Reg) (jk : BitVec 6),
    (∃ t, exec (.lx20 i jk) s = .next t ∧ OnlyX s t i
        ∧ ∀ n < 60, (getX t i).getLsbD ((n + jk.toNat) % 60) = (getX s i).getLsbD n)
    ∧ (∃ t, exec (.ax21 i jk) s = .next t ∧ OnlyX s t i
        ∧ ∀ n < 60, (getX t i).getLsbD n = (getX s i).getLsbD (min (n + jk.toNat) 59))
    ∧ (∃ t, exec (.lx22 i j k) s = .next t ∧ OnlyX s t i
        ∧ ∀ n < 60, if (getB s j).getLsbD 17 = false
          then (getX t i).getLsbD ((n + (getB s j).toNat % 64) % 60) = (getX s k).getLsbD n
          else (getX t i).getLsbD n = (getX s k).getLsbD (min (n + (~~~getB s j).toNat % 4096) 59))
    ∧ (∃ t, exec (.ax23 i j k) s = .next t ∧ OnlyX s t i
        ∧ ∀ n < 60, if (getB s j).getLsbD 17 = false
          then (getX t i).getLsbD n = (getX s k).getLsbD (min (n + (getB s j).toNat % 4096) 59)
          else (getX t i).getLsbD ((n + (~~~getB s j).toNat % 64) % 60) = (getX s k).getLsbD n)
    ∧ (∃ t, exec (.mx43 i jk) s = .next t ∧ OnlyX s t i
        ∧ ∀ n < 60, (getX t i).getLsbD n = decide (60 ≤ n + jk.toNat))

/-- 24: an infinite or indefinite word is passed through with count 0; a zero coefficient gives a word of sign bits and
count 48; any other coefficient is shifted left until bit 47 is its highest bit, the exponent falls by the count, and a
word of sign bits is delivered where the exponent would fall below its range. -/
def Obligations.NormalizeShiftsOutLeadingZeros : Prop :=
  ∀ (s : State) (i j k : Reg),
    ∃ t n, exec (.nx24 i j k) s = .next t ∧ OnlyXB s t i j ∧ n ≤ 48 ∧ getB t j = (if j = 0 then 0 else BitVec.ofNat 18 n)
      ∧ (fpClass (getX s k) = .inf ∨ fpClass (getX s k) = .ind → getX t i = getX s k ∧ n = 0)
      ∧ (fpClass (getX s k) ≠ .inf → fpClass (getX s k) ≠ .ind →
          (fpCoef (getX s k) = 0 → n = 48 ∧ getX t i = if (getX s k).msb then BitVec.allOnes 60 else 0)
          ∧ (fpCoef (getX s k) ≠ 0 → 2 ^ 47 ≤ fpCoef (getX s k) * 2 ^ n ∧ fpCoef (getX s k) * 2 ^ n < 2 ^ 48
            ∧ (fpExp (getX s k) - n < -1023 → getX t i = if (getX s k).msb then BitVec.allOnes 60 else 0)
            ∧ (-1023 ≤ fpExp (getX s k) - n → fpCoef (getX t i) = fpCoef (getX s k) * 2 ^ n
                ∧ fpExp (getX t i) = fpExp (getX s k) - n ∧ (getX t i).msb = (getX s k).msb ∧ fpNorm (getX t i) = true)))

/-- 25: as 24 with a round bit below the lowest bit; a zero coefficient becomes the round bit in bit 47. -/
def Obligations.RoundNormalizeAddsTheRoundBit : Prop :=
  ∀ (s : State) (i j k : Reg),
    ∃ t n, exec (.zx25 i j k) s = .next t ∧ OnlyXB s t i j ∧ n ≤ 48 ∧ getB t j = (if j = 0 then 0 else BitVec.ofNat 18 n)
      ∧ (fpClass (getX s k) = .inf ∨ fpClass (getX s k) = .ind → getX t i = getX s k ∧ n = 0)
      ∧ (fpClass (getX s k) ≠ .inf → fpClass (getX s k) ≠ .ind →
          (fpCoef (getX s k) = 0 → n = 48)
          ∧ (fpCoef (getX s k) ≠ 0 → 2 ^ 47 ≤ fpCoef (getX s k) * 2 ^ n ∧ fpCoef (getX s k) * 2 ^ n < 2 ^ 48)
          ∧ (fpExp (getX s k) - n < -1023 → getX t i = if (getX s k).msb then BitVec.allOnes 60 else 0)
          ∧ (-1023 ≤ fpExp (getX s k) - n →
                fpCoef (getX t i) = (if fpCoef (getX s k) = 0 then 2 ^ 47 else fpCoef (getX s k) * 2 ^ n + 2 ^ n / 2)
                ∧ fpExp (getX t i) = fpExp (getX s k) - n ∧ (getX t i).msb = (getX s k).msb))

/-- 26 and 27: unpack delivers the sign-extended coefficient and the exponent; pack joins sign, exponent and coefficient;
packing what unpack delivered restores the word. The spec marks as derived both that restoring (R199 c) and that 27
complements the exponent field of a negative word (R198). -/
def Obligations.UnpackAndPackAreInverse : Prop :=
  ∀ (s : State) (i j k l : Reg),
    (∃ t, exec (.ux26 i j k) s = .next t ∧ OnlyXB s t i j
        ∧ (∀ n < 60, (getX t i).getLsbD n = (if n < 48 then (getX s k).getLsbD n else (getX s k).msb))
        ∧ getB t j = (if j = 0 then 0 else (fpExp11 (getX s k)).signExtend 18))
    ∧ (∃ t, exec (.px27 i j k) s = .next t ∧ OnlyX s t i
        ∧ ∀ n < 60, (getX t i).getLsbD n =
          (if n < 48 ∨ n = 59 then (getX s k).getLsbD n
           else if n = 58 then ((getX s k).msb == (getB s j).getLsbD 10)
           else ((getX s k).msb != (getB s j).getLsbD (n - 48))))
    ∧ (j ≠ 0 → ∃ t u, exec (.ux26 i j k) s = .next t ∧ exec (.px27 l j i) t = .next u ∧ getX u l = getX s k)

/-- 36 and 37 are the 60-bit ones complement sum and difference: right modulo 2^60 - 1, negative zero in one case only;
47 counts ones; 46 does nothing. -/
def Obligations.IntegerSumDifferenceAndCount : Prop :=
  ∀ (s : State) (i j k : Reg),
    (∃ t, exec (.ix36 i j k) s = .next t ∧ OnlyX s t i
        ∧ ((getX t i).toNat ≡ (getX s j).toNat + (getX s k).toNat [MOD 2 ^ 60 - 1])
        ∧ (getX t i = BitVec.allOnes 60 ↔ getX s j = BitVec.allOnes 60 ∧ getX s k = BitVec.allOnes 60))
    ∧ (∃ t, exec (.ix37 i j k) s = .next t ∧ OnlyX s t i
        ∧ ((getX t i).toNat + (getX s k).toNat ≡ (getX s j).toNat [MOD 2 ^ 60 - 1])
        ∧ (getX t i = BitVec.allOnes 60 ↔ getX s j = BitVec.allOnes 60 ∧ getX s k = 0))
    ∧ (∃ t, exec (.cx47 i k) s = .next t ∧ OnlyX s t i
        ∧ (getX t i).toNat = ((Finset.range 60).filter (fun n => (getX s k).getLsbD n = true)).card)
    ∧ exec .no46 s = .next s

/-! ### Floating point -/

/-- Each of the eleven floating instructions completes in every state: it delivers its unit's word to X[i], flag or no
flag; it sets at most that one arithmetic flag; SLIP changes only if the flag was clear and its mode flag is set. -/
def Obligations.FloatingInstructionsDeliver : Prop :=
  ∀ (s : State) (ins : Instr) (i : Reg) (r : FpResult), FloatsTo s ins i r →
    ∃ t, exec ins s = .next t ∧ OnlyXFlags s t i ∧ getX t i = r.1
      ∧ (r.2 = none → t.cpu.psd = s.cpu.psd ∧ t.cpu.slip = s.cpu.slip)
      ∧ (∀ f, r.2 = some f → (f = .underflow ∨ f = .overflow ∨ f = .indefinite) ∧ t.cpu.psd = withFlags s [f]
          ∧ (flag s f = true ∨ isCause s.cpu.psd f = false → t.cpu.slip = s.cpu.slip)
          ∧ (flag s f = false → isCause s.cpu.psd f = true → ∃ n, t.cpu.slip = some n
              ∧ (∀ b, s.cfg.errorExitSlip = some b → s.cpu.slip = none → n ≤ b)
              ∧ ∀ m, s.cpu.slip = some m → n ≤ m))

/-- An indefinite operand gives the positive indefinite word and sets Indefinite, in every floating instruction. -/
def Obligations.IndefiniteOperandGivesIndefinite : Prop :=
  ∀ (s : State) (ins : Instr) (i : Reg) (r : FpResult) (xj xk : Word60),
    FloatsTo s ins i r → FloatOperands s ins xj xk → fpClass xj = .ind ∨ fpClass xk = .ind →
    ∃ t, exec ins s = .next t ∧ getX t i = 0o17770000000000000000#60 ∧ flag t .indefinite = true
      ∧ flag t .overflow = flag s .overflow ∧ flag t .underflow = flag s .underflow

/-- The corners of the special-operand tables: opposite infinities in a sum, infinity times zero, zero over zero and
infinity over infinity are indefinite; a quotient by zero is infinite and a quotient by infinity zero, with the sign of
the quotient and their flag. -/
def Obligations.SpecialOperandTables : Prop :=
  ∀ (far : Bool) (xj xk : Word60) (dp rnd : Bool) (w : Nat),
    (fpClass xj = .inf → fpClass xk = .inf →
      fadd far xj xk false dp rnd =
        (if xj.msb = xk.msb then (if xj.msb then 0o40007777777777777777#60 else 0o37770000000000000000#60, some .overflow)
         else (0o17770000000000000000#60, some .indefinite))
      ∧ fadd far xj xk true dp rnd =
        (if xj.msb = xk.msb then (0o17770000000000000000#60, some .indefinite)
         else (if xj.msb then 0o40007777777777777777#60 else 0o37770000000000000000#60, some .overflow))
      ∧ fdiv xj xk rnd = (0o17770000000000000000#60, some .indefinite))
    ∧ (fpClass xj = .inf → fpClass xk = .zero →
      fmul xj xk dp w = (0o17770000000000000000#60, some .indefinite)
      ∧ fmul xk xj dp w = (0o17770000000000000000#60, some .indefinite))
    ∧ (fpClass xj = .zero → fpClass xk = .zero → fdiv xj xk rnd = (0o17770000000000000000#60, some .indefinite))
    ∧ (fpClass xj = .num ∨ fpClass xj = .inf → fpClass xk = .zero →
      fdiv xj xk rnd =
        (if xj.msb != xk.msb then 0o40007777777777777777#60 else 0o37770000000000000000#60, some .overflow))
    ∧ (fpClass xj = .num ∨ fpClass xj = .zero → fpClass xk = .inf →
      fdiv xj xk rnd = (if xj.msb != xk.msb then BitVec.allOnes 60 else 0, some .underflow))
    ∧ (fpClass xj = .num ∨ fpClass xj = .zero → fpClass xk = .zero →
      fmul xj xk dp w = (if xj.msb != xk.msb then BitVec.allOnes 60 else 0, some .underflow))

/-- 30 and 32 together hold the exact sum, 31 and 33 the exact difference, of two finite operands whose exponents differ by
at most 47: with e the exponent of the upper half, the lower half has exponent e - 48 and (upper * 2^48 + lower) * 2^(e - 48)
is the sum or difference. 34 and 35 hold the upper half, cut off toward zero, of the rounded sum or difference: a round bit
stands just below the coefficient of the larger exponent, of (Xk) where they are equal, and one below the other too where
both operands are normalized or have unlike signs (34) or like signs (35). The sign of the whole exact sum in every half and
the cutting off are the spec's decision D19 (assumption 31); FADD_FAR_COPY plays no part at these exponents. -/
def Obligations.SumHalvesHoldTheExactSum : Prop :=
  ∀ (s : State) (i j k : Reg) (x y : Word60) (lo hi : Int) (sub : Bool) (upper lower round : Instr),
    x = getX s j → y = getX s k →
    (if sub then upper = .fx31 i j k ∧ lower = .dx33 i j k ∧ round = .rx35 i j k
      else upper = .fx30 i j k ∧ lower = .dx32 i j k ∧ round = .rx34 i j k) →
    fpClass x ≠ .ind → fpClass x ≠ .inf → fpClass y ≠ .ind → fpClass y ≠ .inf →
    lo = min (fpExp x) (fpExp y) → hi = max (fpExp x) (fpExp y) → hi - lo ≤ 47 →
    (-1023 ≤ hi - 48 → ∃ t u, exec upper s = .next t ∧ exec lower s = .next u
      ∧ hi ≤ fpExp (getX t i) ∧ fpExp (getX t i) ≤ hi + 1 ∧ fpExp (getX u i) = fpExp (getX t i) - 48
      ∧ (signedCoef (getX t i) * 2 ^ 48 + signedCoef (getX u i)) * 2 ^ (fpExp (getX t i) - lo).toNat
          = (signedCoef x * 2 ^ (fpExp x - lo).toNat
              + (if sub then -signedCoef y else signedCoef y) * 2 ^ (fpExp y - lo).toNat) * 2 ^ 48)
    ∧ ∀ (second : Bool) (n : Int), second = (fpNorm x && fpNorm y || (x.msb != y.msb) != sub) →
      n = roundedCoef x (second || decide (fpExp y < fpExp x)) * 2 ^ (fpExp x - lo).toNat
          + (if sub then -1 else 1) * roundedCoef y (second || decide (fpExp x ≤ fpExp y)) * 2 ^ (fpExp y - lo).toNat →
      ∃ t, exec round s = .next t
        ∧ fpExp (getX t i) = hi + (if 2 ^ (49 + (hi - lo).toNat) ≤ n.natAbs then 1 else 0)
        ∧ fpCoef (getX t i) = n.natAbs / 2 ^ ((fpExp (getX t i) - lo).toNat + 1) ∧ (getX t i).msb = decide (n < 0)

/-- 40 and 42 together hold the exact product of two finite operands: where the exponents stay in range, the 96-bit
product is the two coefficients side by side, moved one place left exactly if both operands are normalized and it is below
2^95, with the exponents to match. 41 holds the upper half, in the same way, of the product with its round bit: of weight
2^46, or, for operands not both normalized, of 2^47 or either as RMUL_UNNORM_ROUND says. That 40 and 42 alike make that
shift, and that 42 takes its half after it, is the spec's decision D21; the round bit is its D22, where `either` leaves the
weight free (both assumption 31). -/
def Obligations.ProductHalvesHoldTheExactProduct : Prop :=
  ∀ (s : State) (i j k : Reg) (x y : Word60) (normal : Bool), x = getX s j → y = getX s k →
    fpClass x = .num → fpClass y = .num → normal = (fpNorm x && fpNorm y) → fpExp x + fpExp y + 48 ≤ 1023 →
    (-1022 ≤ fpExp x + fpExp y → ∃ t u, exec (.fx40 i j k) s = .next t ∧ exec (.dx42 i j k) s = .next u
      ∧ ∃ n : Nat, n = (if normal = true ∧ fpCoef x * fpCoef y < 2 ^ 95 then 1 else 0)
        ∧ fpExp (getX t i) = fpExp x + fpExp y + 48 - n ∧ fpExp (getX u i) = fpExp x + fpExp y - n
        ∧ fpCoef (getX t i) * 2 ^ 48 + fpCoef (getX u i) = fpCoef x * fpCoef y * 2 ^ n
        ∧ (getX t i).msb = (x.msb != y.msb) ∧ (getX u i).msb = (x.msb != y.msb)
        ∧ (normal = true → fpNorm (getX t i) = true))
    ∧ (-1022 ≤ fpExp x + fpExp y + 48 → ∃ t, exec (.rx41 i j k) s = .next t
      ∧ ∃ c n : Nat, (c = 2 ^ 46 ∨ c = 2 ^ 47) ∧ (normal = true ∨ s.cfg.rmulRound = .quarter → c = 2 ^ 46)
        ∧ (normal = false → s.cfg.rmulRound = .half → c = 2 ^ 47)
        ∧ n = (if normal = true ∧ fpCoef x * fpCoef y + c < 2 ^ 95 then 1 else 0)
        ∧ fpExp (getX t i) = fpExp x + fpExp y + 48 - n
        ∧ fpCoef (getX t i) = (fpCoef x * fpCoef y + c) * 2 ^ n / 2 ^ 48 ∧ (getX t i).msb = (x.msb != y.msb))

/-- 44, and 45 with its round bit of half a unit on the dividend's coefficient: where the divisor's coefficient is more than
half the dividend's, the quotient is exact to its last bit; where it is not, the divide fault delivers the indefinite word.
The truncation, the range tests after the correction and the bound of the divide fault are the spec's decision D23
(assumption 31). -/
def Obligations.QuotientIsExactToItsLastBit : Prop :=
  ∀ (s : State) (ins : Instr) (i j k : Reg) (x y : Word60) (m : Nat), x = getX s j → y = getX s k →
    (ins = .fx44 i j k ∧ m = 2 * fpCoef x ∨ ins = .rx45 i j k ∧ m = 2 * fpCoef x + 1) →
    fpClass x = .num → fpClass y = .num → -1023 ≤ fpExp x - fpExp y - 48 → fpExp x - fpExp y - 47 ≤ 1023 →
    ∃ t, exec ins s = .next t
      ∧ (fpCoef x < 2 * fpCoef y →
        ∃ n : Nat, n = (if fpCoef y ≤ fpCoef x then 1 else 0) ∧ fpExp (getX t i) = fpExp x - fpExp y - 48 + n
          ∧ fpCoef (getX t i) * (2 * fpCoef y) * 2 ^ n ≤ m * 2 ^ 48
          ∧ m * 2 ^ 48 < (fpCoef (getX t i) + 1) * (2 * fpCoef y) * 2 ^ n ∧ (getX t i).msb = (x.msb != y.msb))
      ∧ (2 * fpCoef y ≤ fpCoef x → getX t i = 0o17770000000000000000#60 ∧ flag t .indefinite = true)

/-! ### Branches -/

/-- 030 to 037 and 04 to 07 branch to K exactly if their condition holds, 02 goes to (Bi) + K; they change nothing but
where the CPU goes on. The ordered tests put negative zero below positive zero; the sum of 02 is the spec's decision D2
(assumption 15). -/
def Obligations.BranchesChooseTheNextWord : Prop :=
  (∀ (s : State) (ins : Instr) (c : Prop) (K : Word18), BranchesIf s ins c K →
      ∃ t, exec ins s = .next t ∧ OnlyFlow s t ∧ (c → t.cpu.flow = .jump K) ∧ (¬ c → t = s))
    ∧ ∀ (s : State) (i : Reg) (K : Word18),
      ∃ t, exec (.jp02 i K) s = .next t ∧ OnlyFlow s t ∧ t.cpu.flow = .jump (ocAdd (getB s i) K)

/-- 010 with K in range, not 0 and not (BPA): the exit word (an 04 jump to P + 1 in its upper half) is stored at K, unless
SCM Direct Range is set already; the stack is void and the CPU goes on at K + 1. -/
def Obligations.ReturnJumpStoresTheExitWord : Prop :=
  ∀ (s : State) (K : Word18), NoParity s → K < s.cpu.fls → K ≠ 0 → K ≠ s.cpu.bpa →
    ∃ t, exec (.rj010 K) s = .next t ∧ t.cpu.flow = .jump (K + 1)
      ∧ t = { s with scm := t.scm, cpu := { s.cpu with iws := [], flow := t.cpu.flow, recent := t.cpu.recent } }
      ∧ (∀ n, n ≠ (scmAbs s K).toNat → memRead t.scm n = memRead s.scm n)
      ∧ (scmExists s (scmAbs s K) = true → flag s .scmDirectRange = false →
          memRead t.scm (scmAbs s K).toNat = (0o0400#12 ++ (s.cpu.p + 1) ++ 0#30 : BitVec 60))
      ∧ (flag s .scmDirectRange = true → t.scm = s.scm)

/-- 010 with K out of range, 0 or (BPA): the flags of the tests that fire are set, the store is made unless K is out of
range or SCM Direct Range was set, and the error exit begins, which stores K + 1. Where K out of range sets that flag, the
stores on record may be lost (R489: the spec's decision D31, assumption 26). That Breakpoint says nothing of the word after
the 010 is assumption 38. -/
def Obligations.ReturnJumpErrorExits : Prop :=
  ∀ (s : State) (K : Word18), Quiet s → NoParity s → PkgReady s →
    s.cpu.fls ≤ K ∨ K = 0 ∨ K = s.cpu.bpa →
    ∃ t u, exec (.rj010 K) s = .next t ∧ Exchanges u t s.cpu.eea (K + 1)
      ∧ u = { s with scm := u.scm, cpu := { s.cpu with psd := u.cpu.psd, iws := [], recent := u.cpu.recent } }
      ∧ u.cpu.psd = withFlags s ((if s.cpu.fls ≤ K then [.scmDirectRange] else []) ++ (if K = 0 then [.programRange] else [])
          ++ (if K = s.cpu.bpa then [.breakpoint] else []))
      ∧ (s.cpu.fls ≤ K → RangeEffect s u)
      ∧ (K < s.cpu.fls →
        (∀ n, n ≠ (scmAbs s K).toNat → memRead u.scm n = memRead s.scm n)
          ∧ memRead u.scm (scmAbs s K).toNat =
            if flag s .scmDirectRange = true then memRead s.scm (scmAbs s K).toNat
            else (0o0400#12 ++ (s.cpu.p + 1) ++ 0#30 : BitVec 60))

/-! ### Exchange jumps -/

/-- The exchange jump: if nothing comes between its 33 steps, the sixteen words at the address and the registers change
places, with the given P stored, and nothing else of the machine changes. Each of its steps but the last makes one
reference to a word not written yet: it reads the word, or, the word having been read, writes that one word. -/
def Obligations.ExchangeJumpSwapsRegistersAndPackage : Prop :=
  (∀ (s : State) (a : ScmAddr) (storedP : Word18) (who : Initiator), Quiet s → NoParity s → PkgReady s → who ≠ .deadStart →
    Exchanges s (exchangeJump s a storedP who) a storedP)
  ∧ ∀ (s : State) (x : Exchange), Quiet s → NoParity s → s.cfg.scmWords = 65536 → s.cpu.phase = .exchanging x →
    (∃ w : Fin 16, x.put[w] = false) →
    ∃ (w : Fin 16) (t : State), step s = .next (ticked s t) ∧ x.put[w] = false
      ∧ (x.got[w] = none → t = { s with cpu := { s.cpu with
          phase := .exchanging { x with got := x.got.set w (some (memRead s.scm (x.addr + BitVec.ofNat 16 w).toNat)) } } })
      ∧ (x.got[w] ≠ none →
          t = { s with scm := t.scm, cpu := { s.cpu with phase := .exchanging { x with put := x.put.set w true } } }
          ∧ ∀ n, n ≠ (x.addr + BitVec.ofNat 16 w).toNat → memRead t.scm n = memRead s.scm n)

/-- A program that exchanges back finds every register as it was, with the stored P, if nothing comes between the steps of
the two sequences. -/
def Obligations.ExchangeBackRestoresTheRegisters : Prop :=
  ∀ (s : State) (a : ScmAddr) (p1 p2 : Word18) (who1 who2 : Initiator), Quiet s → NoParity s → PkgReady s →
    who1 ≠ .deadStart → who2 ≠ .deadStart →
    ∃ t u, steps 33 (exchangeJump s a p1 who1) = .next t ∧ steps 33 (exchangeJump t a p2 who2) = .next u
      ∧ sameRegisters u.cpu { s.cpu with p := p1 } ∧ ∀ n, ¬ inPkg a n → memRead u.scm n = memRead s.scm n

/-- 00 sets Program Range and begins the exchange at (EEA) with P + 1. That the stored PSD has no Breakpoint of the word after,
where an untaken branch has run in the word and P + 1 = (BPA), is the model's choice (assumption 38, DESIGN CHOICE). -/
def Obligations.ErrorExitInstruction : Prop :=
  ∀ s : State, Quiet s → NoParity s → PkgReady s →
    ∃ t, exec .es00 s = .next t
      ∧ Exchanges { s with cpu := { s.cpu with psd := withFlags s [.programRange] } } t s.cpu.eea (s.cpu.p + 1)

/-- Both forms of 013 release every Interrupt Lockout, a held event becoming a request, and begin the exchange, at (NEA) or
at (Bj) + K + (RAS), with P + 1. The release is the spec's decision D7, the sum (Bj) + K its D2 (assumptions 37, 15). That
the stored PSD has no Breakpoint of the word after, where an untaken branch has run in the word and P + 1 = (BPA), is the
model's choice (assumption 38, DESIGN CHOICE); so is it that the meanings do not test Exit Mode, by which the decoder
chooses the form (assumption 30, DEDUCED). -/
def Obligations.ExchangeExitInstructions : Prop :=
  ∀ (s : State) (j : Reg) (K : Word18), Quiet s → NoParity s → PkgReady s →
    ∃ m : Vector MuxChan 16,
      (∀ c : Unit16, m[c].inp = { s.mux[c].inp with
            lockout := false, ireq := s.mux[c].inp.ireq || s.mux[c].inp.held, held := false }
          ∧ m[c].out = { s.mux[c].out with
            lockout := false, ireq := s.mux[c].out.ireq || s.mux[c].out.held, held := false })
      ∧ (∃ t, exec .mj013Nea s = .next t ∧ Exchanges { s with mux := m } t s.cpu.nea (s.cpu.p + 1))
      ∧ (∃ t, exec (.mj013Bk j K) s = .next t
          ∧ Exchanges { s with mux := m } t ((s.cpu.ras + ocAdd (getB s j) K).setWidth 16) (s.cpu.p + 1))

/-! ### Storage -/

/-- 011 and 012 in range begin a copy of K + (Bj) words (ten bits of the count) between (X0) in LCM and (A0) in SCM; a zero
count makes no test and does nothing, whatever (X0) and (A0) are. A copy moves one word a step; if nothing comes between, all
its words are then where they belong and nothing else has changed; the step after the last word does what follows an
instruction. These clauses are the model's choice, not the manual's words: the count is formed by the adder of the spec's
decision D2, so that complementary operands give a count of zero (assumption 15); SCM addresses keep 16 bits (D3) and the copy
runs with SCM Direct Range already set too (D26; both assumption 32); one word a step, and a step more after the last
(assumption 11, DESIGN CHOICE). -/
def Obligations.BlockCopiesMoveTheWords : Prop :=
  (∀ (s : State) (j : Reg) (K : Word18) (n : Nat), n = (ocAdd K (getB s j)).toNat →
    (n = 0 → exec (.rl011 j K) s = .next s ∧ exec (.wl012 j K) s = .next s)
    ∧ (n ≠ 0 → n + ((getX s 0).setWidth 19 : BitVec 19).toNat ≤ s.cpu.fll.toNat → n + (getA s 0).toNat ≤ s.cpu.fls.toNat →
        exec (.rl011 j K) s = .next { s with cpu := { s.cpu with
          phase := .copying ⟨true, (getX s 0).setWidth 19, getA s 0, n % 1024⟩ } }
        ∧ exec (.wl012 j K) s = .next { s with cpu := { s.cpu with
          phase := .copying ⟨false, (getX s 0).setWidth 19, getA s 0, n % 1024⟩ } }))
  ∧ (∀ (s : State) (c : CopyRun), Quiet s → NoParity s → s.cfg.scmWords = 65536 → s.cfg.lcmWords = 524288 →
    s.cpu.phase = .copying c → c.left ≤ 1024 →
    ∃ t, steps c.left s = .next t
      ∧ t.cpu.phase = .copying ⟨c.toScm, c.lcm + BitVec.ofNat 19 c.left, c.scm + BitVec.ofNat 18 c.left, 0⟩
      ∧ t = { s with scm := t.scm, lcm := t.lcm, cpu := { s.cpu with phase := t.cpu.phase, recent := t.cpu.recent },
                     tick := s.tick + c.left }
      ∧ (c.toScm = true → t.lcm = s.lcm
        ∧ (∀ m : Nat, m < c.left → memRead t.scm (scmAbs s (c.scm + BitVec.ofNat 18 m)).toNat
            = memRead s.lcm (lcmAbs s (c.lcm + BitVec.ofNat 19 m)).toNat)
        ∧ ∀ a : Nat, (∀ m : Nat, m < c.left → a ≠ (scmAbs s (c.scm + BitVec.ofNat 18 m)).toNat) →
            memRead t.scm a = memRead s.scm a)
      ∧ (c.toScm = false → t.scm = s.scm ∧ t.cpu.recent = s.cpu.recent
        ∧ (∀ m : Nat, m < c.left → memRead t.lcm (lcmAbs s (c.lcm + BitVec.ofNat 19 m)).toNat
            = memRead s.scm (scmAbs s (c.scm + BitVec.ofNat 18 m)).toNat)
        ∧ ∀ a : Nat, (∀ m : Nat, m < c.left → a ≠ (lcmAbs s (c.lcm + BitVec.ofNat 19 m)).toNat) →
            memRead t.lcm a = memRead s.lcm a))
  ∧ ∀ (s : State) (c : CopyRun), Quiet s → s.cpu.phase = .copying c → c.left = 0 →
    step s = .next (endStep (finishInstr { s with cpu := { s.cpu with phase := .inWord } } (currentLength s)))

/-- 011 and 012 out of range move no word and set the block range flags of the tests that fire. The count is formed by the
adder of the spec's decision D2 (assumption 15). -/
def Obligations.BlockCopiesOutOfRange : Prop :=
  ∀ (s : State) (j : Reg) (K : Word18) (n : Nat) (lf sf : Bool),
    n = (ocAdd K (getB s j)).toNat → n ≠ 0 →
    lf = decide (s.cpu.fll.toNat < n + ((getX s 0).setWidth 19 : BitVec 19).toNat) →
    sf = decide (s.cpu.fls.toNat < n + (getA s 0).toNat) → (lf || sf) = true →
    ∃ t, exec (.rl011 j K) s = .next t ∧ exec (.wl012 j K) s = .next t
      ∧ t = { s with cpu := { s.cpu with psd := t.cpu.psd, slip := t.cpu.slip } }
      ∧ t.cpu.psd = withFlags s ((if lf then [.lcmBlockRange] else []) ++ (if sf then [.scmBlockRange] else []))

/-- 014 and 015: one word between LCM at (RAL) + (Xk) and Xj; out of range LCM Direct Range is set, the read is still made
and the write is not. -/
def Obligations.LcmWordReferences : Prop :=
  (∀ (s : State) (j k : Reg) (r : BitVec 19), NoParity s → r = (getX s k).setWidth 19 → s.cpu.fll ≤ r →
    lcmExists s (lcmAbs s r) = true →
    (∃ t, exec (.rx014 j k) s = .next t
        ∧ t = { s with cpu := { s.cpu with x := t.cpu.x, psd := t.cpu.psd, slip := t.cpu.slip } }
        ∧ (∀ q, q ≠ j → getX t q = getX s q) ∧ getX t j = memRead s.lcm (s.cpu.ral + r).toNat
        ∧ t.cpu.psd = withFlags s [.lcmDirectRange])
    ∧ (∃ t, exec (.wx015 j k) s = .next t ∧ t = { s with cpu := { s.cpu with psd := t.cpu.psd, slip := t.cpu.slip } }
        ∧ t.cpu.psd = withFlags s [.lcmDirectRange]))
  ∧ ∀ (s : State) (j k : Reg) (r : BitVec 19), NoParity s → r = (getX s k).setWidth 19 → r < s.cpu.fll →
    lcmExists s (lcmAbs s r) = true →
    (∃ t, exec (.rx014 j k) s = .next t ∧ OnlyX s t j ∧ getX t j = memRead s.lcm (s.cpu.ral + r).toNat)
    ∧ (∃ t, exec (.wx015 j k) s = .next t ∧ t = { s with lcm := t.lcm }
        ∧ memRead t.lcm (s.cpu.ral + r).toNat = getX s j
        ∧ ∀ a, a ≠ (s.cpu.ral + r).toNat → memRead t.lcm a = memRead s.lcm a)

/-- 50 to 57 with i from 1 to 5 and the address in range read SCM at (RAS + r)[15:0] to X[i]; with i = 0 they set A0 and
make no storage reference. The 18-bit adder is the spec's decision D2 (assumption 15). -/
def Obligations.SetAReadsStorage : Prop :=
  (∀ (s : State) (ins : Instr) (r : Word18), SetsA s ins 0 r →
    ∃ t, exec ins s = .next t ∧ getA t 0 = r ∧ (∀ q, q ≠ 0 → getA t q = getA s q)
      ∧ t = { s with cpu := { s.cpu with a := t.cpu.a } })
  ∧ ∀ (s : State) (ins : Instr) (i : Reg) (r : Word18), SetsA s ins i r → 1 ≤ i.val → i.val ≤ 5 →
    NoParity s → r < s.cpu.fls → scmExists s (scmAbs s r) = true →
    ∃ t, exec ins s = .next t ∧ getA t i = r ∧ getX t i = memRead s.scm ((s.cpu.ras + r).setWidth 16 : ScmAddr).toNat
      ∧ (∀ q, q ≠ i → getA t q = getA s q ∧ getX t q = getX s q)
      ∧ t = { s with cpu := { s.cpu with a := t.cpu.a, x := t.cpu.x, recent := t.cpu.recent } }

/-- 50 to 57 with i = 6 or 7 and the address in range write (Xi) into SCM at (RAS + r)[15:0]; with SCM Direct Range set
the store is suppressed. The 18-bit adder is the spec's decision D2 (assumption 15). -/
def Obligations.SetAWritesStorage : Prop :=
  ∀ (s : State) (ins : Instr) (i : Reg) (r : Word18), SetsA s ins i r → 6 ≤ i.val → NoParity s → r < s.cpu.fls →
    scmExists s (scmAbs s r) = true →
    ∃ t, exec ins s = .next t ∧ getA t i = r ∧ (∀ q, q ≠ i → getA t q = getA s q)
      ∧ t = { s with scm := t.scm, cpu := { s.cpu with a := t.cpu.a, recent := t.cpu.recent } }
      ∧ (∀ n, n ≠ ((s.cpu.ras + r).setWidth 16 : ScmAddr).toNat → memRead t.scm n = memRead s.scm n)
      ∧ memRead t.scm ((s.cpu.ras + r).setWidth 16 : ScmAddr).toNat =
          (if flag s .scmDirectRange = true then memRead s.scm ((s.cpu.ras + r).setWidth 16 : ScmAddr).toNat else getX s i)

/-- 50 to 57 out of range set SCM Direct Range and Ai (that an out-of-range write sets Ai too, the spec marks as derived:
R283 (1)); a read still delivers the word (zeros under NOTE8_FCO), a write is not made. Where that sets the flag, each of the
two most recent references, if a store in range, may be lost, by a free choice of its own, and no other word changes (R489:
the spec's decision D31, assumption 26). That all 18 bits of r are tested while the word is taken at (RAS + r)[15:0] is the
spec's decision D3 (R283 (2); assumption 32); the 18-bit adder is its D2 (assumption 15). -/
def Obligations.SetAOutOfRange : Prop :=
  (∀ (s : State) (ins : Instr) (i : Reg) (r : Word18), SetsA s ins i r → i ≠ 0 → NoParity s → s.cpu.fls ≤ r →
    scmExists s (scmAbs s r) = true →
    ∃ t, exec ins s = .next t ∧ getA t i = r ∧ (∀ q, q ≠ i → getA t q = getA s q ∧ getX t q = getX s q)
      ∧ t = { s with scm := t.scm, cpu := { s.cpu with
          a := t.cpu.a, x := t.cpu.x, psd := t.cpu.psd, slip := t.cpu.slip, recent := t.cpu.recent } }
      ∧ t.cpu.psd = withFlags s [.scmDirectRange]
      ∧ getX t i = (if 6 ≤ i.val then getX s i else if s.cfg.note8Fco = true then 0
          else memRead s.scm ((s.cpu.ras + r).setWidth 16 : ScmAddr).toNat)
      ∧ RangeEffect s t)
  ∧ ∀ (s : State) (a b : ScmAddr) (v w : Word60), s.cpu.recent = [.store a v, .store b w] → flag s .scmDirectRange = false →
    scmExists s a = true → scmExists s b = true →
    ∃ lostA lostB : Bool, lostA = Config.drawBool s.tick (.abortStore 1) ∧ lostB = Config.drawBool s.tick (.abortStore 2)
      ∧ (a ≠ b → memRead (beforeRange s).scm a.toNat = (if lostA then v else memRead s.scm a.toNat)
          ∧ memRead (beforeRange s).scm b.toNat = (if lostB then w else memRead s.scm b.toNat))
      ∧ (a = b → memRead (beforeRange s).scm a.toNat =
          (if lostA then (if lostB then w else v) else memRead s.scm a.toNat))

/-- 60 to 67 set Bi and nothing else, with i = 0 nothing at all; 70 to 77 set Xi to the sign-extended 18-bit result and
nothing else. The sign of a zero that the 18-bit adder delivers, which 70 to 77 extend over the word, is the spec's decision D2
(assumption 15). -/
def Obligations.SetBAndSetXSetOneRegister : Prop :=
  (∀ (s : State) (ins : Instr) (i : Reg) (r : Word18), SetsB s ins i r →
    ∃ t, exec ins s = .next t ∧ OnlyB s t i ∧ getB t i = (if i = 0 then 0 else r))
  ∧ ∀ (s : State) (ins : Instr) (i : Reg) (r : Word18), SetsX s ins i r →
    ∃ t, exec ins s = .next t ∧ OnlyX s t i ∧ ∀ n < 60, (getX t i).getLsbD n = r.getLsbD (min n 17)

/-! ### Channels of the multiplexer -/

/-- 0160 and 0170 act in Monitor Mode on an existing channel other than 0, on that side of that channel only; elsewhere
they are Pass instructions. 0170 starts a record: the word request is made, a Record Pulse is owed, and what is left of an
older record in the ranks or owed as a Word Pulse is dropped (assumption 19). That ASM, IREQ, LOCKOUT, HELD and, for 0160,
WORDREQ stay as they were is the spec's decision D17 (assumption 32). -/
def Obligations.ChannelResetsNeedMonitorMode : Prop :=
  (∀ (s : State) (k : Reg) (c : Unit16), c.val = (getB s k).toNat % 16 →
    flag s .monitorMode = false ∨ c = 0 ∨ s.cfg.muxPresent[c] = false →
    exec (.ri0160 k) s = .next s ∧ exec (.ro0170 k) s = .next s)
  ∧ ∀ (s : State) (k : Reg) (c : Unit16), c.val = (getB s k).toNat % 16 → flag s .monitorMode = true →
    c ≠ 0 → s.cfg.muxPresent[c] = true →
    exec (.ri0160 k) s = .next { s with
        mux := s.mux.set c { s.mux[c] with inp := { s.mux[c].inp with bufAddr := 0, asmCnt := 0 } }
        cpu := { s.cpu with didReset := some .input } }
    ∧ exec (.ro0170 k) s = .next { s with
        mux := s.mux.set c { s.mux[c] with out := { s.mux[c].out with
            bufAddr := 0, disCnt := 0, wordReq := true, active := true, owesRec := s.mux[c].out.owesRec + 1,
            owesWord := false, ranks := [], shown := false } }
        cpu := { s.cpu with didReset := some .output } }

/-- 016 and 017 read the buffer address of channel (Bk)[3:0] to Bj: the offset in the buffer, or with STATUS_ABSOLUTE set the
SCM address, which is the spec's decision D6 (R46; assumption 32); channel 0 reads the clock, or zero; an absent channel reads
400000, or zero. Directly after a reset of the same side the status is free, which the premise on `afterReset` leaves out:
the spec's decision D16 (R491; assumption 17). Nothing but Bj changes, whatever the status is. -/
def Obligations.ChannelStatusReads : Prop :=
  ∀ (s : State) (j k : Reg) (c : Unit16), c.val = (getB s k).toNat % 16 →
    (∃ t, exec (.ib016 j k) s = .next t ∧ OnlyB s t j
        ∧ (j ≠ 0 → s.cpu.afterReset ≠ some .input →
            (c = 0 → getB t j = BitVec.ofBool s.rtcFlag ++ s.clk)
            ∧ (c ≠ 0 → s.cfg.muxPresent[c] = true → getB t j =
                if s.cfg.statusAbsolute = true then BitVec.ofNat 18 (s.cfg.inBuf[c].first + s.mux[c].inp.bufAddr.toNat)
                else 0#10 ++ s.mux[c].inp.bufAddr)
            ∧ (c ≠ 0 → s.cfg.muxPresent[c] = false → getB t j = 0o400000)))
    ∧ (∃ t, exec (.ob017 j k) s = .next t ∧ OnlyB s t j
        ∧ (j ≠ 0 → s.cpu.afterReset ≠ some .output →
            (c ≠ 0 → s.cfg.muxPresent[c] = true → getB t j =
                if s.cfg.statusAbsolute = true then BitVec.ofNat 18 (s.cfg.outBuf[c].first + s.mux[c].out.bufAddr.toNat)
                else 0#10 ++ s.mux[c].out.bufAddr)
            ∧ (c = 0 ∨ s.cfg.muxPresent[c] = false → getB t j = 0)))

/-- SCM serves the requests of every agent in the order in which it receives them, and those that it receives at once by their
priority: exchange, increment, Return Jump; then the multiplexer, the lowest channel first and input before output, with the MCU
at any place among the channels; then the next instructions and the block copy. It receives each request once, after all that it
has received before, and serves the first that is still out; a turn of any other side, or of the MCU's path, changes nothing.
The CPU asks by what it does next; while a request of another agent, received before its own, is out, its own is received and
waits, and nothing else happens in its turn; else it goes on. When SCM receives what is out, and what the CPU asks for, are the
model's reading (assumption 18); that the MCU writes SCM so is the spec's decision D15 (assumption 24). -/
def Obligations.ScmServesRequestsInOrder : Prop :=
  (∀ (s : State) (cpu : Bool) (mcu : Option Nat), ∃ l m,
    agentStep s (.scmReceive cpu mcu) = { s with scmQueue := s.scmQueue ++ l, mcuOut := m }
      ∧ l.Pairwise MayPrecede
      ∧ (∀ c input, .mux c input ∈ l ↔ .mux c input ∉ s.scmQueue ∧ c ≠ 0 ∧ s.cfg.muxPresent[c] = true
          ∧ (if input then s.mux[c].inp.wordReq else s.mux[c].out.wordReq) = true)
      ∧ (∀ a v, .mcu a v ∈ l ↔ mcu.isSome = true ∧ s.mcuOut.head? = some (a, v) ∧ ∀ b w, .mcu b w ∉ s.scmQueue)
      ∧ ((∃ a v, .mcu a v ∈ l) → m = s.mcuOut.tail) ∧ ((∀ a v, .mcu a v ∉ l) → m = s.mcuOut)
      ∧ ∀ r : ScmRequest, r.ofCpu = true →
        (r ∈ l ↔ cpu = true ∧ cpuHeld s = false ∧ cpuRequest s = some r ∧ ∀ q ∈ s.scmQueue, q.ofCpu = false))
  ∧ (∀ s : State, (∀ a v, agentStep s (.mcuWriteScm a v) = { s with mcuOut := s.mcuOut ++ [(a, v)] })
      ∧ (∀ c input, requestOut s (.mux c input) = true ↔ c ≠ 0 ∧ s.cfg.muxPresent[c] = true
          ∧ (if input then s.mux[c].inp.wordReq else s.mux[c].out.wordReq) = true)
      ∧ (∀ r : ScmRequest, (∀ c input, r ≠ .mux c input) → requestOut s r = true)
      ∧ (∀ r, servedRequest s = some r ↔
          requestOut s r = true ∧ ∃ l m, s.scmQueue = l ++ r :: m ∧ ∀ q ∈ l, requestOut s q = false)
      ∧ (∀ c, (servedRequest s ≠ some (.mux c true) → muxStore s c = s)
          ∧ (servedRequest s ≠ some (.mux c false) → muxFetch s c = s))
      ∧ ((∀ a v, servedRequest s ≠ some (.mcu a v)) → mcuStore s = s))
  ∧ (∀ s : State, cpuHeld s = false →
    (∀ r l m q, s.scmQueue = l ++ q :: m → (∀ p ∈ l, p.ofCpu = false) → q.ofCpu = false → requestOut s q = true →
      cpuRequest s = some r →
      cpuTurn s = .next { s with scmQueue := if s.scmQueue.any ScmRequest.ofCpu then s.scmQueue else s.scmQueue ++ [r] })
    ∧ ((∀ l m q, s.scmQueue = l ++ q :: m → (∀ p ∈ l, p.ofCpu = false) → q.ofCpu = false → requestOut s q = false) ∨
        cpuRequest s = none →
      cpuTurn s = cpuMove { s with scmQueue := s.scmQueue.filter (fun r => !r.ofCpu) }))
  ∧ ∀ s : State,
    (∀ (x : Exchange) (w : Fin 16), s.cpu.phase = .exchanging x → x.put[w] = false → cpuRequest s = some .exchange)
    ∧ (∀ x : Exchange, s.cpu.phase = .exchanging x → (∀ w : Fin 16, x.put[w] = true) → cpuRequest s = none)
    ∧ (∀ c, s.cpu.phase = .copying c → cpuRequest s = if c.left = 0 then none else some .blockCopy)
    ∧ (s.cpu.phase = .deadStart → cpuRequest s = none)
    ∧ (s.cpu.phase = .inWord →
      (∀ i r, SetsA s (currentInstr s) i r → cpuRequest s = if i = 0 then none else some .increment)
        ∧ (∀ K, currentInstr s = .rj010 K → cpuRequest s = some .returnJump)
        ∧ ((∀ i r, ¬ SetsA s (currentInstr s) i r) → (∀ K, currentInstr s ≠ .rj010 K) → cpuRequest s = none))
    ∧ ∀ isNew : Bool, s.cpu.phase = (if isNew then .newInterval else .fetch) →
      ((makeCurrent s isNew).cpu.phase ≠ .inWord → cpuRequest s = none)
        ∧ ((makeCurrent s isNew).cpu.phase = .inWord →
          ((∃ v ∈ [s.cpu.p, s.cpu.p + 1, s.cpu.p + 2], ∀ w, (v, w) ∉ s.cpu.iws) → cpuRequest s = some .fetch)
          ∧ ((∀ v ∈ [s.cpu.p, s.cpu.p + 1, s.cpu.p + 2], ∃ w, (v, w) ∈ s.cpu.iws) →
              cpuRequest s = cpuRequest (makeCurrent s isNew)))

/-- Five 12-bit words assemble into one 60-bit word, the first uppermost, and a Word Request is then made. A Record Pulse
fills a partly assembled word with zeros and asks for its storage, which raises one event; with no word in part it raises
the event at once; it is answered by a Resume Pulse. The spec marks as derived that the filled word is stored and that a
Resume answers (R109); the event is its decision D7 (R107; assumption 37), and when a Record Pulse is served is the model's
reading (assumption 18). The word of an input side that is served goes into SCM at its buffer address, and no other word
changes. On the output side SCM delivers the word at the buffer address; its five 12-bit words go out the first uppermost, each after the
Resume of the one before, a Record Pulse owed with the first; a high-speed channel moves them into its ranks in that order,
where the spec keeps the order of words alone: the ranks as a list are the model's (assumption 19). -/
def Obligations.FiveWordsAssembleInOrder : Prop :=
  (∀ (m : MuxIn) (high : Bool) (w0 w1 w2 w3 w4 : Word12), m.asmCnt = 0 →
    ((((((m.sample high w0).sample high w1).sample high w2).sample high w3).sample high w4).asm
        = w0 ++ w1 ++ w2 ++ w3 ++ w4)
      ∧ ((((m.sample high w0).sample high w1).sample high w2).sample high w3).wordReq = false
      ∧ (((((m.sample high w0).sample high w1).sample high w2).sample high w3).sample high w4).wordReq = true)
  ∧ (∀ (m : MuxIn) (b : Buffer), m.asmCnt.toNat ≤ 4 →
    m.record.recIn = m.recIn - 1 ∧ m.record.sentS = m.sentS + 1
      ∧ (m.asmCnt = 0 → m.record.asm = m.asm ∧ m.record.wordReq = m.wordReq ∧ m.record.bufAddr = m.bufAddr
          ∧ OneEvent m.ireq m.lockout m.held m.record.ireq m.record.held)
      ∧ (m.asmCnt ≠ 0 → m.record.wordReq = true ∧ m.record.asmCnt = 0
          ∧ (∀ n < 60, m.record.asm.getLsbD n = (decide (60 ≤ n + 12 * m.asmCnt.toNat) && m.asm.getLsbD n))
          ∧ m.record.ireq = m.ireq ∧ m.record.held = m.held
          ∧ OneEvent m.ireq m.lockout m.held (m.record.stored b).ireq (m.record.stored b).held))
  ∧ (∀ (s : State) (c : Unit16) (a : ScmAddr) (m : MuxIn), servedRequest s = some (.mux c true) → NoParity s →
    a = bufScm s.cfg.inBuf[c] s.mux[c].inp.bufAddr → scmExists s a = true → m = s.mux[c].inp.stored s.cfg.inBuf[c] →
    ∃ t, muxStore s c = t ∧ memRead t.scm a.toNat = s.mux[c].inp.asm
      ∧ (∀ n, n ≠ a.toNat → memRead t.scm n = memRead s.scm n)
      ∧ m.wordReq = false ∧ m.asmCnt = 0 ∧ m.bufAddr = bufNext s.cfg.inBuf[c] s.mux[c].inp.bufAddr
      ∧ t = { s with
          scm := t.scm, scmQueue := s.scmQueue.erase (.mux c true), mux := s.mux.set c { s.mux[c] with inp := m }
          cpu := { s.cpu with recent := t.cpu.recent } })
  ∧ (∀ (s : State) (c : Unit16) (v : Word60), servedRequest s = some (.mux c false) → NoParity s →
    scmExists s (bufScm s.cfg.outBuf[c] s.mux[c].out.bufAddr) = true →
    v = memRead s.scm (bufScm s.cfg.outBuf[c] s.mux[c].out.bufAddr).toNat →
    muxFetch s c = { s with scmQueue := s.scmQueue.erase (.mux c false), mux := s.mux.set c { s.mux[c] with out :=
      if s.cfg.highSpeed[c] = true then { s.mux[c].out with dis := v, wordReq := false, disCnt := 0 }
      else { s.mux[c].out with
        dis := v, wordReq := false, disCnt := 0, lines := v.extractLsb' 48 12, owesWord := true } } })
  ∧ (∀ (s : State) (c : Unit16), s.cfg.highSpeed[c] = false → s.mux[c].out.active = true → s.mux[c].out.held = false →
    (s.mux[c].out.owesWord = true →
      muxSend s c = { s with mux := s.mux.set c { s.mux[c] with out := { s.mux[c].out with
        owesWord := false, sentW := s.mux[c].out.sentW + 1, sentR := s.mux[c].out.sentR + s.mux[c].out.owesRec,
        owesRec := 0 } } })
    ∧ (s.mux[c].out.owesWord = false → s.mux[c].out.wordReq = false → 0 < s.mux[c].out.resIn →
        s.mux[c].out.disCnt.toNat ≤ 4 →
      ∃ o, muxResume s c = { s with mux := s.mux.set c { s.mux[c] with out := o } }
        ∧ o.resIn = s.mux[c].out.resIn - 1 ∧ o.disCnt.toNat = s.mux[c].out.disCnt.toNat + 1
        ∧ o.bufAddr = (if s.mux[c].out.disCnt = 0 then bufNext s.cfg.outBuf[c] s.mux[c].out.bufAddr
            else s.mux[c].out.bufAddr)
        ∧ (s.mux[c].out.disCnt.toNat < 4 → o.wordReq = false ∧ o.owesWord = true
            ∧ o.lines = s.mux[c].out.dis.extractLsb' (36 - 12 * s.mux[c].out.disCnt.toNat) 12)
        ∧ (s.mux[c].out.disCnt.toNat = 4 → o.wordReq = true ∧ o.owesWord = false ∧ o.lines = s.mux[c].out.lines)))
  ∧ ∀ (s : State) (c : Unit16), s.cfg.highSpeed[c] = true → s.mux[c].out.active = true → s.mux[c].out.held = false →
    s.mux[c].out.wordReq = false → s.mux[c].out.ranks.length < 3 → s.mux[c].out.disCnt.toNat < 5 →
    ∃ o, muxAhead s c = { s with mux := s.mux.set c { s.mux[c] with out := o } }
      ∧ o.ranks = s.mux[c].out.ranks ++ [s.mux[c].out.dis.extractLsb' (48 - 12 * s.mux[c].out.disCnt.toNat) 12]
      ∧ o.disCnt.toNat = s.mux[c].out.disCnt.toNat + 1
      ∧ o.bufAddr = (if s.mux[c].out.disCnt = 1 then bufNext s.cfg.outBuf[c] s.mux[c].out.bufAddr
          else s.mux[c].out.bufAddr)
      ∧ o.wordReq = decide (s.mux[c].out.disCnt.toNat = 4)

/-- A buffer address, input or output, advances circularly; an interrupt event is raised when the advance reaches the
middle or the end of the buffer, and at no other word of a record. A side with a held event transfers nothing: an input side
samples no word, serves no Record Pulse, sends no Resume Pulse and keeps its high-speed Resume level down; an output side
sends no pulse, moves no word into its ranks and serves no Resume Pulse unless it is idle: a step of such an agent moves the
step counter and the levels alone. What an event does, a request or a held event, and what a held side may not do is the
spec's decision D7 (assumption 37); that pulses that come meanwhile wait is the model's reading (assumption 18). -/
def Obligations.BufferThresholdsRaiseRequests : Prop :=
  (∀ (s : State) (c : Unit16) (e : Event), nextEvent s = e →
    s.mux[c].inp.held = true ∧ (e = .muxSample c ∨ e = .muxRecord c)
      ∨ s.mux[c].out.held = true ∧ (e = .muxSend c ∨ e = .muxAhead c ∨ e = .muxResume c ∧ s.mux[c].out.active = true) →
    step s = .next (endStep (popEvent s)))
  ∧ (∀ m : MuxIn, m.held = true → m.levelUp = false) ∧
  (∀ (m : MuxIn) (b : Buffer), m.endRec = false → 2 ≤ b.length → b.length ≤ 256 → m.bufAddr.toNat < b.length →
    (m.stored b).bufAddr.toNat = (if m.bufAddr.toNat + 1 = b.length then 0 else m.bufAddr.toNat + 1)
      ∧ (m.bufAddr.toNat + 1 = b.length ∨ m.bufAddr.toNat + 1 = b.length / 2 →
          OneEvent m.ireq m.lockout m.held (m.stored b).ireq (m.stored b).held)
      ∧ (m.bufAddr.toNat + 1 ≠ b.length → m.bufAddr.toNat + 1 ≠ b.length / 2 →
          (m.stored b).ireq = m.ireq ∧ (m.stored b).held = m.held)
      ∧ (m.stored b).lockout = m.lockout)
  ∧ ∀ (m : MuxOut) (b : Buffer), 2 ≤ b.length → b.length ≤ 256 → m.bufAddr.toNat < b.length →
    (m.advance b).bufAddr.toNat = (if m.bufAddr.toNat + 1 = b.length then 0 else m.bufAddr.toNat + 1)
      ∧ (m.bufAddr.toNat + 1 = b.length ∨ m.bufAddr.toNat + 1 = b.length / 2 →
          OneEvent m.ireq m.lockout m.held (m.advance b).ireq (m.advance b).held)
      ∧ (m.bufAddr.toNat + 1 ≠ b.length → m.bufAddr.toNat + 1 ≠ b.length / 2 →
          (m.advance b).ireq = m.ireq ∧ (m.advance b).held = m.held)
      ∧ (m.advance b).lockout = m.lockout

/-! ### Interrupts and error exits -/

/-- In Monitor Mode no I/O request is taken, whatever is pending: the end of a word leaves the multiplexer alone, and the only
exchanges that it begins are an error exit, to (EEA), and the real-time interrupt, to 20 octal; without cause for either
the CPU goes on. While Clear
I/O is up no side of a channel has a Word Request, an interrupt request, a lockout or a held event at the end of any
step, no output side is active, and the clock and its flag are as the step left them. That LOCKOUT, HELD and ACTIVE fall
too is the spec's decision D12 (assumption 20). -/
def Obligations.MonitorModeMasksIoRequests : Prop :=
  (∀ (s : State) (next : Word18), flag s .monitorMode = true → s.rtcFlag = false → errorRequest s.cpu.psd = false →
    breakAfterBranch s = false →
    endWord s next = { s with cpu := { s.cpu with p := next, phase := .fetch, flow := .seq, seqInc := seqAfterInc s } })
  ∧ (∀ (s t : State) (next : Word18), flag s .monitorMode = true → t = endWord s next →
    t.mux = s.mux ∧ t.scmQueue = s.scmQueue ∧ ∀ x, t.cpu.phase = .exchanging x →
      (x.initiator = .errorExit ∧ x.addr = s.cpu.eea) ∨ (x.initiator = .realTime ∧ x.addr = 0o20 ∧ s.rtcFlag = true))
  ∧ ∀ s : State, (s.ppus[0].outData[0]).getLsbD 4 = true →
    (∀ c : Unit16, ∀ m, m = (settle s).mux[c] →
      m.inp.wordReq = false ∧ m.inp.ireq = false ∧ m.inp.lockout = false ∧ m.inp.held = false
        ∧ m.out.wordReq = false ∧ m.out.ireq = false ∧ m.out.lockout = false ∧ m.out.held = false ∧ m.out.active = false)
      ∧ pendingIo (settle s) = none ∧ (∀ c input, servedRequest (settle s) ≠ some (.mux c input))
      ∧ (settle s).rtcFlag = s.rtcFlag ∧ (settle s).clk = s.clk

/-- The I/O request that is taken is the first pending one by channel, input before output; its request is dropped, its
lockout set (the spec's decision D7, assumption 37), and the exchange jump to the package of that side begins, with the
address of the next word. Outside Monitor Mode the end of a word takes that request, or a pending real-time request, or
neither (which of them is free: D8, assumption 28). That taking the real-time request clears its flag is the spec's decision
D5 (R445; assumption 32). -/
def Obligations.IoRequestsAreTakenInOrder : Prop :=
  ∀ (s : State) (next : Word18) (c : Unit16) (input : Bool), Quiet s → NoParity s → PkgReady s →
    pendingIo s = some (c, input) →
    c ≠ 0 ∧ s.cfg.muxPresent[c] = true
      ∧ (if input then s.mux[c].inp.ireq = true else s.mux[c].out.ireq = true ∧ s.mux[c].inp.ireq = false)
      ∧ (∀ d : Unit16, d < c → d ≠ 0 → s.cfg.muxPresent[d] = true → s.mux[d].inp.ireq = false ∧ s.mux[d].out.ireq = false)
      ∧ Exchanges { s with mux := s.mux.set c (if input then
            { s.mux[c] with inp := { s.mux[c].inp with ireq := false, lockout := true } }
            else { s.mux[c] with out := { s.mux[c].out with ireq := false, lockout := true } }) }
          (acceptIo s c input next) (BitVec.ofNat 16 (0o40 * c.val + if input then 0 else 0o20)) next
      ∧ (flag s .monitorMode = false →
          wordEndInterrupts s next = acceptIo s c input next
          ∨ s.rtcFlag = true ∧ wordEndInterrupts s next = exchangeJump { s with rtcFlag := false } 0o20 next .realTime
          ∨ wordEndInterrupts s next = { s with cpu := { s.cpu with p := next, phase := .fetch, flow := .seq } })

/-- An error exit request with no slip left is taken at the end of the word: an exchange jump to (EEA) begins that stores
the address of the next word; with a slip above 0 the word end counts it down by one and goes on. An instruction issued in
Step Mode sets Step with slip 0, so that the exit comes at the end of its word. A word with an executed branch whose
following word is at (BPA) ends with Breakpoint set and the error exit; that it stores the target of a taken branch is the
spec's decision D25 (assumption 32). A parity error declared for a reference sets its flag in the PSD, a cause of that exit,
with a slip in its bound, and the latches take the address and the sections (whether an earlier error stays there is
free); storage is unchanged, and 014 runs on although its word is bad. -/
def Obligations.ErrorExitAtTheEndOfTheWord : Prop :=
  (∀ (s : State) (next : Word18), Quiet s → NoParity s → PkgReady s → errorRequest s.cpu.psd = true →
    breakAfterBranch s = false → s.cpu.slip = none ∨ s.cpu.slip = some 0 →
    Exchanges { s with cpu := { s.cpu with seqInc := seqAfterInc s } } (endWord s next) s.cpu.eea next)
  ∧ (∀ (s : State) (next : Word18) (n : Nat), errorRequest s.cpu.psd = true → breakAfterBranch s = false →
    s.cpu.slip = some (n + 1) →
    endWord s next = wordEndInterrupts { s with cpu := { s.cpu with slip := some n, seqInc := seqAfterInc s } } next
      ∧ (s.rtcFlag = false → flag s .monitorMode = true ∨ pendingIo s = none →
        endWord s next = { s with cpu := { s.cpu with
          p := next, phase := .fetch, flow := .seq, slip := some n, seqInc := seqAfterInc s } }))
  ∧ (∀ (s : State) (i : Instr), flag s .stepMode = true → flag s .step = false →
    issue s i = { s with cpu := { s.cpu with
        psd := withFlags s [.step], slip := some 0, flow := .seq, afterReset := s.cpu.didReset, didReset := none
        issued := s.cpu.issued + 1, inc30 := s.cpu.inc30 + (if isInc30 i then 1 else 0)
        branched := s.cpu.branched || isBranch i } })
  ∧ (∀ (s : State) (next : Word18), Quiet s → NoParity s → PkgReady s →
    flag s .step = true → s.cpu.slip = some 0 → s.cpu.branched = false ∨ s.cpu.p + 1 ≠ s.cpu.bpa →
    Exchanges { s with cpu := { s.cpu with seqInc := seqAfterInc s } } (endWord s next) s.cpu.eea next)
  ∧ (∀ (s : State) (next : Word18), Quiet s → NoParity s → PkgReady s → s.cpu.branched = true → s.cpu.p + 1 = s.cpu.bpa →
    Exchanges { s with cpu := { s.cpu with psd := withFlags s [.breakpoint], seqInc := seqAfterInc s } }
      (endWord s next) s.cpu.eea next)
  ∧ (∀ (s : State) (a : ScmAddr) (sec : BitVec 5), s.scmBad.find? (fun e => e.1 == a) = some (a, sec) →
    (∀ x, s.cpu.phase ≠ .exchanging x) →
    ∃ t, t = scmDetect s a ∧ t.cpu.psd = withFlags s [.scmParity] ∧ t.scmBad = s.scmBad.erase (a, sec) ∧ t.scm = s.scm
      ∧ (t.scmLatch = ⟨a, sec⟩ ∨ t.scmLatch = s.scmLatch ∧ s.scmLatch.sections ≠ 0)
      ∧ (flag s .scmParity = false → ∃ n, t.cpu.slip = some n
          ∧ ∀ b, s.cfg.errorExitSlip = some b → s.cpu.slip = none → n ≤ b))
  ∧ (∀ (s : State) (a : LcmAddr) (sec : BitVec 4), s.lcmBad.find? (fun e => e.1 == a) = some (a, sec) →
    ∃ t, t = lcmDetect s a ∧ t.cpu.psd = withFlags s [.lcmParity] ∧ t.lcmBad = s.lcmBad.erase (a, sec) ∧ t.lcm = s.lcm
      ∧ (t.lcmLatch = ⟨a, sec⟩ ∨ t.lcmLatch = s.lcmLatch ∧ s.lcmLatch.sections ≠ 0)
      ∧ (flag s .lcmParity = false → ∃ n, t.cpu.slip = some n
          ∧ ∀ b, s.cfg.errorExitSlip = some b → s.cpu.slip = none → n ≤ b))
  ∧ ∀ (s : State) (j k : Reg) (sec : BitVec 4), (getX s k).setWidth 19 < s.cpu.fll →
    s.lcmBad.find? (fun e => e.1 == lcmAbs s ((getX s k).setWidth 19)) = some (lcmAbs s ((getX s k).setWidth 19), sec) →
    ∃ t, exec (.rx014 j k) s = .next t ∧ t.cpu.psd = withFlags s [.lcmParity] ∧ t.lcm = s.lcm ∧ t.scm = s.scm
      ∧ (∀ q, q ≠ j → getX t q = getX s q)

/-- A word at address 0, at or past FLS, or at (BPA) is not executed: the flags of the tests that fire are set and the
error exit begins, which stores that address. At the start of an execution interval a cause that arrives set in the loaded
PSD has the same effect; that the tests are made there too is the spec's decision D27 (assumption 32). A parity error of the
exchange, or of another agent's reference after its load, counts as arrived too (assumption 12, DESIGN CHOICE). Where SCM
Direct Range becomes set, the stores on record may be lost (R489: D31, assumption 26). A word at (BPA) reached by sequencing
from a word of two 30-bit Increment instructions, with no other test firing, may instead be executed, with Breakpoint set and slip 0, so
that the exit comes at its end (R431); which of the two is free. -/
def Obligations.AddressTestsTakeTheErrorExit : Prop :=
  (∀ s : State, Quiet s → NoParity s → PkgReady s →
    s.cpu.seqInc = false ∨ s.cpu.p = 0 ∨ s.cpu.fls ≤ s.cpu.p ∨ s.cpu.p ≠ s.cpu.bpa →
    s.cpu.phase = .fetch ∧ (s.cpu.p = 0 ∨ s.cpu.fls ≤ s.cpu.p ∨ s.cpu.p = s.cpu.bpa)
      ∨ s.cpu.phase = .newInterval
        ∧ (s.cpu.p = 0 ∨ s.cpu.fls ≤ s.cpu.p ∨ s.cpu.p = s.cpu.bpa ∨ errorRequest s.cpu.psd = true) →
    ∃ t u, step s = .next t ∧ Exchanges u t s.cpu.eea s.cpu.p
      ∧ u = ticked s { s with scm := u.scm, cpu := { s.cpu with psd := u.cpu.psd, recent := u.cpu.recent } }
      ∧ u.cpu.psd = withFlags s ((if s.cpu.fls ≤ s.cpu.p then [.scmDirectRange] else [])
          ++ (if s.cpu.p = 0 then [.programRange] else []) ++ (if s.cpu.p = s.cpu.bpa then [.breakpoint] else []))
      ∧ (s.cpu.fls ≤ s.cpu.p → RangeEffect s u)
      ∧ (s.cpu.p < s.cpu.fls → u.scm = s.scm ∧ u.cpu.recent = s.cpu.recent))
  ∧ ∀ s : State, Quiet s → NoParity s → PkgReady s → s.cpu.phase = .fetch → s.cpu.seqInc = true →
    s.cpu.p = s.cpu.bpa → s.cpu.p ≠ 0 → s.cpu.p < s.cpu.fls →
    (∃ t u, step s = .next t ∧ Exchanges u t s.cpu.eea s.cpu.p
        ∧ u = ticked s { s with cpu := { s.cpu with psd := withFlags s [.breakpoint] } })
      ∨ ∃ u : State, step s = onNext (runParcel u) endStep
        ∧ u = { s with cpu := { s.cpu with
            psd := withFlags s [.breakpoint], slip := some 0, ciw := u.cpu.ciw, iws := u.cpu.iws, parcel := 0
            phase := .inWord, issued := 0, inc30 := 0, branched := false, seqInc := false } }
        ∧ (s.cpu.iws = [] → u.cpu.ciw = memRead s.scm (scmAbs s s.cpu.p).toNat)

/-- The clock counts modulo 2^17; its wrap sets the real-time request, and nothing else does: a step of any other agent
leaves the clock as it was, and sets no request. -/
def Obligations.ClockWrapRequestsInterrupt : Prop :=
  (∀ s : State, LevelsIdle s → s.sched = [.clock] →
    step s = .next { s with
      sched := [], tick := s.tick + 1, clk := s.clk + 1, rtcFlag := s.rtcFlag || decide (s.clk.toNat = 2 ^ 17 - 1) })
  ∧ ∀ s t : State, nextEvent s ≠ .clock → step s = .next t → t.clk = s.clk ∧ (t.rtcFlag = true → s.rtcFlag = true)

/-! ### What an instruction may touch -/

/-- No instruction of either processor changes RAS, FLS, RAL, FLL, NEA, EEA, BPA, the mode flags or P, or clears a
condition flag; no step of any agent changes those registers and flags but P, except the load that ends an exchange jump. -/
def Obligations.ControlRegistersNeedAnExchange : Prop :=
  (∀ (i : Instr) (s t : State), exec i s = .next t → ControlKept s.cpu t.cpu ∧ t.cpu.p = s.cpu.p)
    ∧ ∀ s t : State, (∀ x, s.cpu.phase = .exchanging x → ∃ w : Fin 16, x.put[w] = false) → step s = .next t →
      ControlKept s.cpu t.cpu

/-- Storage protection: an instruction changes SCM words inside its SCM field only and LCM words inside its LCM field
only, and so does each word of a block copy. The MCU's path is bounded by no field: once it is the MCU's request that SCM serves,
the word at its absolute address is written, in any phase of the CPU, and nothing else changes; no store of the program to that
word can be lost any more. That operation is the spec's decision D15 (R114; assumption 24). `CpuOk` keeps the stores that a range error can undo and the
copies in progress inside the fields. -/
def Obligations.StoresStayInsideTheField : Prop :=
  (∀ (i : Instr) (s t : State), CpuOk s.cfg s.cpu → exec i s = .next t →
    (∀ n, memRead t.scm n ≠ memRead s.scm n → ∃ r : Word18, r < s.cpu.fls ∧ n = (scmAbs s r).toNat)
      ∧ (∀ n, memRead t.lcm n ≠ memRead s.lcm n → ∃ r : BitVec 19, r < s.cpu.fll ∧ n = (lcmAbs s r).toNat))
  ∧ (∀ (s : State) (c : CopyRun), CpuOk s.cfg s.cpu → s.cpu.phase = .copying c → c.left ≠ 0 →
    (∀ n, memRead (copyStep s c).scm n ≠ memRead s.scm n → ∃ r : Word18, r < s.cpu.fls ∧ n = (scmAbs s r).toNat)
      ∧ (∀ n, memRead (copyStep s c).lcm n ≠ memRead s.lcm n → ∃ r : BitVec 19, r < s.cpu.fll ∧ n = (lcmAbs s r).toNat))
  ∧ ∀ (s : State) (a : ScmAddr) (v : Word60), nextEvent s = .mcuStore → servedRequest s = some (.mcu a v) → NoParity s →
    scmExists s a = true →
    ∃ t, step s = .next (endStep t) ∧ memRead t.scm a.toNat = v ∧ (∀ n, n ≠ a.toNat → memRead t.scm n = memRead s.scm n)
      ∧ t = { popEvent s with
          scm := t.scm, scmQueue := s.scmQueue.erase (.mcu a v), cpu := { s.cpu with recent := t.cpu.recent } }
      ∧ (∀ old, ScmRef.store a old ∉ t.cpu.recent)
      ∧ ∀ b old, b ≠ a → (ScmRef.store b old ∈ t.cpu.recent ↔ ScmRef.store b old ∈ s.cpu.recent)

/-- An instruction or a word step of a PPU changes nothing of the CPU, its storage, its multiplexer and its clock, and
nothing of another PPU but, where the MCU changes its scanner selection, the cable contents of the PPUs that were
or are selected: the lines and the pulses in flight of their channel 0. That freeing is the spec's decision D35
(assumption 25). A CPU instruction or turn changes nothing of any PPU and not the clock. -/
def Obligations.ProcessorsKeepToTheirOwnState : Prop :=
  (∀ s t : State, (ppuStep s = .next t ∨ ∃ (i : Instr) (w : Word12) (m : Option Word12), encode i = .ppu w m ∧ exec i s = .next t) →
      t = { s with ppus := t.ppus } ∧ ∀ u : Unit16, u ≠ s.cur →
        (s.cur ≠ 0 ∨ scanTarget t = scanTarget s ∨ (scanTarget s ≠ some u ∧ scanTarget t ≠ some u) →
          t.ppus[u] = s.ppus[u])
        ∧ t.ppus[u] = { s.ppus[u] with
            outData := t.ppus[u].outData, inLines := t.ppus[u].inLines
            sentW := t.ppus[u].sentW, sentR := t.ppus[u].sentR, sentS := t.ppus[u].sentS }
        ∧ ∀ n : Cable, n ≠ 0 → t.ppus[u].outData[n] = s.ppus[u].outData[n] ∧ t.ppus[u].inLines[n] = s.ppus[u].inLines[n]
            ∧ t.ppus[u].sentW[n] = s.ppus[u].sentW[n] ∧ t.ppus[u].sentR[n] = s.ppus[u].sentR[n]
            ∧ t.ppus[u].sentS[n] = s.ppus[u].sentS[n])
    ∧ ∀ s t : State, (cpuTurn s = .next t ∨ ∃ (i : Instr) (p : Parcel) (q : Option Parcel), encode i = .cpu p q ∧ exec i s = .next t) →
      t.ppus = s.ppus ∧ t.cur = s.cur ∧ t.cfg = s.cfg ∧ t.clk = s.clk

/-! ### The peripheral processors -/

/-- The PPU instructions that only compute A, in the five address modes (R304 to R308): A is set, P advances by the
instruction's words, nothing else changes. The adder is the spec's decision D2 (R309; assumption 15). -/
def Obligations.PpuInstructionsThatSetA : Prop :=
  ∀ (s : State) (ins : Instr) (n : Nat) (v : Word18) (p : Word12), PpuSetsA (getPpu s) ins n v →
    nextAddr s.cfg.pWrap (getPpu s).p n = some p →
    ∃ t, exec ins s = .next t ∧ OnlyPpu s t ∧ getPpu t = { getPpu s with a := v, p := p }

/-- The PPU stores and replaces: one word of memory and A change, P advances, nothing else changes; where P + n is no address
they stop by name (D4, assumption 13). The adder of the replace sums and differences and of the indexed address is the spec's
decision D2 (R309; assumption 15). -/
def Obligations.PpuInstructionsThatStore : Prop :=
  ∀ (s : State) (ins : Instr) (n : Nat) (addr : Word12) (v : Word18), PpuStoresAt (getPpu s) ins n addr v →
    (∀ p, nextAddr s.cfg.pWrap (getPpu s).p n = some p →
      ∃ t, exec ins s = .next t ∧ OnlyPpu s t ∧ getPpu t = { getPpu s with a := v, p := p, mem := (getPpu t).mem }
        ∧ (getPpu t).read addr = v.extractLsb' 0 12
        ∧ ∀ b : Word12, b ≠ addr → (getPpu t).read b = (getPpu s).read b)
    ∧ (nextAddr s.cfg.pWrap (getPpu s).p n = none → exec ins s = .fault .ppuAddressStuck)

/-- The PPU jumps: P is the target exactly if the condition holds, whatever P + n is, else the next instruction; nothing
else changes. A jump not taken whose next address is none stops by name: PPU_P_WRAP at its default, the spec's decision D4
(R303; assumption 13). The targets of 01, m + (d), and of 03 to 07, P + d, are formed by the 12-bit ones complement adder of the
spec's decision D2 (R17, R307, R309; assumption 15): a sum of complementary operands is 0 and not 7777. The spec marks as derived that the target of 03 to 07 is such a sum (R313). -/
def Obligations.PpuJumpInstructions : Prop :=
  ∀ (s : State) (ins : Instr) (n : Nat) (c : Prop) (target : Word12), PpuJumpsIf (getPpu s) ins n c target →
    (c → ∃ t, exec ins s = .next t ∧ OnlyPpu s t ∧ getPpu t = { getPpu s with p := target })
      ∧ (¬ c → ∀ p, nextAddr s.cfg.pWrap (getPpu s).p n = some p →
          ∃ t, exec ins s = .next t ∧ OnlyPpu s t ∧ getPpu t = { getPpu s with p := p })
      ∧ (¬ c → nextAddr s.cfg.pWrap (getPpu s).p n = none → exec ins s = .fault .ppuAddressStuck)

/-- The six Passes advance P; where P + 1 is no address, under PPU_P_WRAP = stuck, they stop by name (D4, assumption 13). The
two Error Stops stop the PPU, at any P, and leave its registers and memory, P standing at the Error Stop (the spec marks that
as derived; assumption 21); a stopped PPU takes no step: only the step counter and the levels move. -/
def Obligations.PpuPassesAndStops : Prop :=
  (∀ (s : State) (ins : Instr), ins ∈ [.psn24, .pass25, .pass26, .pass27, .pass75, .pass76] →
    (∀ p, nextAddr s.cfg.pWrap (getPpu s).p 1 = some p →
      ∃ t, exec ins s = .next t ∧ OnlyPpu s t ∧ getPpu t = { getPpu s with p := p })
    ∧ (nextAddr s.cfg.pWrap (getPpu s).p 1 = none → exec ins s = .fault .ppuAddressStuck))
  ∧ (∀ s : State, ∃ t, exec .esn00 s = .next t ∧ exec .esn77 s = .next t ∧ OnlyPpu s t
      ∧ getPpu t = { getPpu s with stopped := true })
  ∧ ∀ (s : State) (u : Unit16), nextEvent s = .ppu u → s.ppus[u].stopped = true → step s = .next (endStep (popEvent s))

/-- 02 stores the address of the following instruction at the target and goes on behind it; where P + 2 or the target + 1 is
no address it stops by name (D4, assumption 13). The adder of the indexed target is the spec's decision D2 (R309;
assumption 15). -/
def Obligations.PpuReturnJump : Prop :=
  ∀ (s : State) (d : BitVec 6) (m target : Word12),
    target = (if d = 0 then m else ocAdd m ((getPpu s).read (0#6 ++ d))) →
    (∀ ret p, nextAddr s.cfg.pWrap (getPpu s).p 2 = some ret → nextAddr s.cfg.pWrap target 1 = some p →
      ∃ t, exec (.rjm02 d m) s = .next t ∧ OnlyPpu s t ∧ getPpu t = { getPpu s with p := p, mem := (getPpu t).mem }
        ∧ (getPpu t).read target = ret ∧ ∀ b : Word12, b ≠ target → (getPpu t).read b = (getPpu s).read b)
    ∧ (nextAddr s.cfg.pWrap (getPpu s).p 2 = none ∨ nextAddr s.cfg.pWrap target 1 = none →
      exec (.rjm02 d m) s = .fault .ppuAddressStuck)

/-- P + n is plain addition up to 7777; beyond it the three settings of PPU_P_WRAP differ: no next address, the address
modulo 4096, the ones complement sum; under the default a sequential PPU instruction stops there by name. -/
def Obligations.PpuAddressPastTheEnd : Prop :=
  (∀ (wrap : PWrap) (p : Word12) (n : Nat), n ≤ 2 → p.toNat + n ≤ 0o7777 →
      nextAddr wrap p n = some (p + BitVec.ofNat 12 n))
    ∧ (∀ (p : Word12) (n : Nat), n ≤ 2 → 0o7777 < p.toNat + n →
        nextAddr .stuck p n = none ∧ nextAddr .modulo p n = some (BitVec.ofNat 12 (p.toNat + n - 4096))
        ∧ nextAddr .onesComplement p n = some (ocAdd p (BitVec.ofNat 12 n))
        ∧ nextAddr .onesComplement p n = some (BitVec.ofNat 12 (p.toNat + n - 4095)))
    ∧ (∀ (s : State) (ins : Instr) (n : Nat) (v : Word18), PpuSetsA (getPpu s) ins n v → s.cfg.pWrap = .stuck →
        0o7777 < (getPpu s).p.toNat + n → exec ins s = .fault .ppuAddressStuck)

/-- 70 on a channel whose Input Word flag is set: the word enters A, both input flags clear, a Resume Pulse is sent; while
the flag is clear the PPU does not change, at any P. The MCU's status channels are read at once. Where 70 would go on and
P + 1 is no address, it stops by name (D4, assumption 13). -/
def Obligations.PpuInputToA : Prop :=
  ∀ (s : State) (d : BitVec 6) (c : Cable), c.val = d.toNat % 8 →
    (¬ (s.cur = 0 ∧ isStatusChannel s c = true) → (getPpu s).inw[c] = false → exec (.ian70 d) s = .next s)
    ∧ (nextAddr s.cfg.pWrap (getPpu s).p 1 = none → (s.cur = 0 ∧ isStatusChannel s c = true) ∨ (getPpu s).inw[c] = true →
      exec (.ian70 d) s = .fault .ppuAddressStuck)
    ∧ ∀ p, nextAddr s.cfg.pWrap (getPpu s).p 1 = some p →
      (¬ (s.cur = 0 ∧ isStatusChannel s c = true) → (getPpu s).inw[c] = true →
        ∃ t, exec (.ian70 d) s = .next t ∧ OnlyPpu s t
          ∧ getPpu t = { getPpu s with
              a := 0#6 ++ rxLines s (.ppu s.cur c), p := p, inw := (getPpu s).inw.set c false,
              inr := (getPpu s).inr.set c false, sentS := (getPpu s).sentS.set c ((getPpu s).sentS[c] + 1) })
      ∧ (s.cur = 0 ∧ isStatusChannel s c = true →
        ∃ t v, exec (.ian70 d) s = .next t ∧ OnlyPpu s t ∧ getPpu t = { getPpu s with a := 0#6 ++ v, p := p }
          ∧ v &&& (statusBits s c).1 = (statusBits s c).2 &&& (statusBits s c).1)

/-- 72 on a channel whose Output Word flag is clear: A[11:0] goes on the lines, the flag is set, a Word Pulse is sent;
while the flag is set the PPU does not change, at any P. Only the MCU's channel 0 can change anything else. 74 sets the
Output Record flag and sends a Record Pulse. Where they would go on and P + 1 is no address, they stop by name (D4,
assumption 13). -/
def Obligations.PpuOutputsWordAndRecord : Prop :=
  ∀ (s : State) (d : BitVec 6) (c : Cable), c.val = d.toNat % 8 →
    ((getPpu s).outw[c] = true → exec (.oan72 d) s = .next s)
    ∧ (nextAddr s.cfg.pWrap (getPpu s).p 1 = none →
      ((getPpu s).outw[c] = false → exec (.oan72 d) s = .fault .ppuAddressStuck) ∧ exec (.rfn74 d) s = .fault .ppuAddressStuck)
    ∧ ∀ p, nextAddr s.cfg.pWrap (getPpu s).p 1 = some p →
      ((getPpu s).outw[c] = false →
        ∃ t, exec (.oan72 d) s = .next t ∧ (getPpu t).a = (getPpu s).a ∧ (getPpu t).p = p ∧ (getPpu t).mem = (getPpu s).mem
          ∧ (getPpu t).outData[c] = (getPpu s).a.extractLsb' 0 12 ∧ (getPpu t).outw[c] = true
          ∧ (s.cur ≠ 0 ∨ c ≠ 0 → OnlyPpu s t ∧ getPpu t = { getPpu s with
              p := p, outData := (getPpu s).outData.set c ((getPpu s).a.extractLsb' 0 12),
              outw := (getPpu s).outw.set c true, sentW := (getPpu s).sentW.set c ((getPpu s).sentW[c] + 1) }))
      ∧ ∃ t, exec (.rfn74 d) s = .next t ∧ OnlyPpu s t
        ∧ getPpu t = { getPpu s with
            p := p, outr := (getPpu s).outr.set c true, sentR := (getPpu s).sentR.set c ((getPpu s).sentR[c] + 1) }

/-- The entry steps of 71 and 73, at any P: Q takes m and the transfer begins; a zero count passes on, and stops by name
where P + 2 is no address (D4, assumption 13); the count 777777, which the spec puts outside the model, is refused by name. -/
def Obligations.PpuBlockTransfersBegin : Prop :=
  ∀ (s : State) (d : BitVec 6) (c : Cable) (m : Word12), c.val = d.toNat % 8 →
    ((getPpu s).a ≠ 0 → (getPpu s).a ≠ 0o777777 →
      (∃ t, exec (.iam71 d m) s = .next t ∧ OnlyPpu s t
        ∧ getPpu t = { getPpu s with q := m, iop := .inBlock c true false })
      ∧ (∃ t, exec (.oam73 d m) s = .next t ∧ OnlyPpu s t
        ∧ getPpu t = { getPpu s with q := m, iop := .outBlock c false }))
    ∧ ((getPpu s).a = 0 →
      (∀ p, nextAddr s.cfg.pWrap (getPpu s).p 2 = some p →
        ∃ t, exec (.iam71 d m) s = .next t ∧ exec (.oam73 d m) s = .next t ∧ OnlyPpu s t
          ∧ getPpu t = { getPpu s with q := m, p := p })
      ∧ (nextAddr s.cfg.pWrap (getPpu s).p 2 = none →
        exec (.iam71 d m) s = .fault .ppuAddressStuck ∧ exec (.oam73 d m) s = .fault .ppuAddressStuck))
    ∧ ((getPpu s).a = 0o777777 → exec (.iam71 d m) s = .refused .blockCountNegativeZero
        ∧ exec (.oam73 d m) s = .refused .blockCountNegativeZero)

/-- A word step of 71 in the middle of a block stores the word at M[Q], counts A down and Q up, at any P; a Record flag found
after the first word ends the block, and a clear Word flag makes it wait. That the Record flag is tested before the Word flag
and that the word at M[Q] is then free is the spec's decision D33 (assumption 32). The word steps of a dead start load
(`boot`) are the same, and end at P = 1; the end of a 71 whose P + 2 is no address stops by name (D4, assumption 13). -/
def Obligations.PpuBlockInputWord : Prop :=
  ∀ (s : State) (c : Cable) (first boot : Bool) (e : Option Word12), (getPpu s).iop = .inBlock c first boot →
    e = (if boot then some 1 else nextAddr s.cfg.pWrap (getPpu s).p 2) →
    ((first = true ∨ (getPpu s).inr[c] = false) → (getPpu s).inw[c] = true →
      (∀ p, (ocSub (getPpu s).a 1 = 0 → e = some p) →
        ∃ t, ppuStep s = .next t ∧ OnlyPpu s t
          ∧ (getPpu t).read (getPpu s).q = rxLines s (.ppu s.cur c)
          ∧ (∀ b : Word12, b ≠ (getPpu s).q → (getPpu t).read b = (getPpu s).read b)
          ∧ getPpu t = { getPpu s with
              a := ocSub (getPpu s).a 1, q := ocAdd (getPpu s).q 1, mem := (getPpu t).mem,
              inw := (getPpu s).inw.set c false, inr := (getPpu s).inr.set c false,
              sentS := (getPpu s).sentS.set c ((getPpu s).sentS[c] + 1),
              p := (if ocSub (getPpu s).a 1 = 0 then p else (getPpu s).p),
              iop := (if ocSub (getPpu s).a 1 = 0 then .idle else .inBlock c false boot) })
      ∧ (ocSub (getPpu s).a 1 = 0 → e = none → ppuStep s = .fault .ppuAddressStuck))
    ∧ (first = false → (getPpu s).inr[c] = true →
      (∀ p, e = some p →
        ∃ t, ppuStep s = .next t ∧ OnlyPpu s t
          ∧ (∀ b : Word12, b ≠ (getPpu s).q → (getPpu t).read b = (getPpu s).read b)
          ∧ getPpu t = { getPpu s with p := p, iop := .idle, mem := (getPpu t).mem })
      ∧ (e = none → ppuStep s = .fault .ppuAddressStuck))
    ∧ ((first = true ∨ (getPpu s).inr[c] = false) → (getPpu s).inw[c] = false → ppuStep s = .next s)

/-- A word step of 73 on any but the MCU's channel 0 sends M[Q], counts A down and Q up, at any P, and stores nothing; it waits
while the Output Word flag is set. The word steps of a dead dump (`boot`) are the same, and end at P = 1, which the spec marks
as derived (R477); the end of a 73 whose P + 2 is no address stops by name (D4, assumption 13). -/
def Obligations.PpuBlockOutputWord : Prop :=
  ∀ (s : State) (c : Cable) (boot : Bool) (e : Option Word12), (getPpu s).iop = .outBlock c boot → s.cur ≠ 0 ∨ c ≠ 0 →
    e = (if boot then some 1 else nextAddr s.cfg.pWrap (getPpu s).p 2) →
    ((getPpu s).outw[c] = false →
      (∀ p, (ocSub (getPpu s).a 1 = 0 → e = some p) →
        ∃ t, ppuStep s = .next t ∧ OnlyPpu s t
          ∧ getPpu t = { getPpu s with
              a := ocSub (getPpu s).a 1, q := ocAdd (getPpu s).q 1,
              outData := (getPpu s).outData.set c ((getPpu s).read (getPpu s).q), outw := (getPpu s).outw.set c true,
              sentW := (getPpu s).sentW.set c ((getPpu s).sentW[c] + 1),
              p := (if ocSub (getPpu s).a 1 = 0 then p else (getPpu s).p),
              iop := (if ocSub (getPpu s).a 1 = 0 then .idle else .outBlock c boot) })
      ∧ (ocSub (getPpu s).a 1 = 0 → e = none → ppuStep s = .fault .ppuAddressStuck))
    ∧ ((getPpu s).outw[c] = true → ppuStep s = .next s)
end

