-- ==== Sys2Proof/Laws/Memory.lean ====
section
/-!
SUPPORT. Reading and writing a memory, and the canonical form that every memory operation keeps.
-/

namespace Sys2Proof.Machine

theorem memRead_put_same {w : Nat} (m : Mem w) (a : Nat) (v : BitVec w) : memRead (memPut m a v) a = v := by
  induction m with
  | nil => simp [memPut, memRead]
  | cons c m ih =>
    obtain ⟨b, u⟩ := c
    simp only [memPut]
    split
    · simp [memRead]
    · split
      · simp [memRead]
      · simp [memRead, *]

theorem memRead_put_other {w : Nat} (m : Mem w) (a b : Nat) (v : BitVec w) (h : b ≠ a) :
    memRead (memPut m a v) b = memRead m b := by
  induction m with
  | nil => simp [memPut, memRead, h]
  | cons c m ih =>
    obtain ⟨d, u⟩ := c
    simp only [memPut]
    split
    · simp [memRead, h]
    · split
      · subst_vars; simp [memRead, h]
      · simp [memRead, ih]

theorem memRead_del_same {w : Nat} (m : Mem w) (a : Nat) : memRead (memDel m a) a = 0 := by
  induction m with
  | nil => rfl
  | cons c m ih =>
    obtain ⟨b, u⟩ := c
    by_cases h : b = a
    · subst h; simpa [memDel] using ih
    · simp only [memDel] at ih ⊢
      simp [memRead, h, ih, Ne.symm h]

theorem memRead_del_other {w : Nat} (m : Mem w) (a b : Nat) (h : b ≠ a) : memRead (memDel m a) b = memRead m b := by
  induction m with
  | nil => rfl
  | cons c m ih =>
    obtain ⟨d, u⟩ := c
    simp only [memDel] at ih ⊢
    by_cases hd : d = a
    · subst hd; simp [memRead, h, ih]
    · simp [memRead, hd, ih]

/-- A word just written reads back. -/
@[simp] theorem memRead_write_same {w : Nat} (m : Mem w) (a : Nat) (v : BitVec w) : memRead (memWrite m a v) a = v := by
  unfold memWrite
  split
  · subst_vars; exact memRead_del_same m a
  · exact memRead_put_same m a v

/-- A write leaves every other word alone. -/
theorem memRead_write_other {w : Nat} (m : Mem w) (a b : Nat) (v : BitVec w) (h : b ≠ a) :
    memRead (memWrite m a v) b = memRead m b := by
  unfold memWrite
  split
  · exact memRead_del_other m a b h
  · exact memRead_put_other m a b v h

theorem memPut_mem {w : Nat} (m : Mem w) (a : Nat) (v : BitVec w) (c : Nat × BitVec w) (h : c ∈ memPut m a v) :
    c = (a, v) ∨ c ∈ m := by
  induction m with
  | nil => simpa [memPut] using h
  | cons d m ih =>
    obtain ⟨b, u⟩ := d
    simp only [memPut] at h
    split at h
    · simpa using h
    · split at h
      · rcases List.mem_cons.1 h with h | h
        · exact .inl h
        · exact .inr (List.mem_cons_of_mem _ h)
      · rcases List.mem_cons.1 h with h | h
        · exact .inr (h ▸ List.mem_cons_self)
        · rcases ih h with h | h
          · exact .inl h
          · exact .inr (List.mem_cons_of_mem _ h)

theorem memPut_wf {w : Nat} (m : Mem w) (a : Nat) (v : BitVec w) (hv : v ≠ 0) (h : Memory.wf m) :
    Memory.wf (memPut m a v) := by
  induction m with
  | nil => exact ⟨List.pairwise_singleton _ _, fun c hc => by rw [List.mem_singleton.1 hc]; exact hv⟩
  | cons d m ih =>
    obtain ⟨b, u⟩ := d
    obtain ⟨hp, hz⟩ := h
    have hp' := List.pairwise_cons.1 hp
    simp only [memPut]
    split
    · rename_i hab
      refine ⟨List.pairwise_cons.2 ⟨?_, hp⟩, ?_⟩
      · intro c hc
        rcases List.mem_cons.1 hc with rfl | hc
        · exact hab
        · exact lt_trans hab (hp'.1 c hc)
      · intro c hc
        rcases List.mem_cons.1 hc with rfl | hc
        · exact hv
        · exact hz c hc
    · split
      · rename_i hab
        subst hab
        refine ⟨List.pairwise_cons.2 ⟨fun c hc => hp'.1 c hc, hp'.2⟩, ?_⟩
        intro c hc
        rcases List.mem_cons.1 hc with rfl | hc
        · exact hv
        · exact hz c (List.mem_cons_of_mem _ hc)
      · rename_i h1 h2
        have hw := ih ⟨hp'.2, fun c hc => hz c (List.mem_cons_of_mem _ hc)⟩
        refine ⟨List.pairwise_cons.2 ⟨?_, hw.1⟩, ?_⟩
        · intro c hc
          rcases memPut_mem m a v c hc with rfl | hc
          · simp only; omega
          · exact hp'.1 c hc
        · intro c hc
          rcases List.mem_cons.1 hc with rfl | hc
          · exact hz _ List.mem_cons_self
          · exact hw.2 c hc

/-- A write keeps the canonical form. -/
theorem memWrite_wf {w : Nat} (m : Mem w) (a : Nat) (v : BitVec w) (h : Memory.wf m) : Memory.wf (memWrite m a v) := by
  unfold memWrite
  split
  · exact ⟨h.1.sublist List.filter_sublist, fun c hc => h.2 c (List.mem_of_mem_filter hc)⟩
  · exact memPut_wf m a v (by assumption) h

/-- Nothing listed is in canonical form. -/
theorem memWf_nil {w : Nat} : Memory.wf ([] : Mem w) := ⟨List.Pairwise.nil, by simp⟩

end Sys2Proof.Machine
end

