-- ==== Sys2Proof/Laws/State.lean ====
section
/-!
SUPPORT. One lemma per field per record update, each true by `rfl`, so that later proofs unfold no update.
-/

namespace Sys2Proof.Machine

open Sys2Proof

/-! `setX` -/

@[simp] theorem setX_cfg (s : State) (i : Reg) (v : Word60) : (setX s i v).cfg = s.cfg := rfl
@[simp] theorem setX_scm (s : State) (i : Reg) (v : Word60) : (setX s i v).scm = s.scm := rfl
@[simp] theorem setX_lcm (s : State) (i : Reg) (v : Word60) : (setX s i v).lcm = s.lcm := rfl
@[simp] theorem setX_clk (s : State) (i : Reg) (v : Word60) : (setX s i v).clk = s.clk := rfl
@[simp] theorem setX_rtcFlag (s : State) (i : Reg) (v : Word60) : (setX s i v).rtcFlag = s.rtcFlag := rfl
@[simp] theorem setX_mux (s : State) (i : Reg) (v : Word60) : (setX s i v).mux = s.mux := rfl
@[simp] theorem setX_ppus (s : State) (i : Reg) (v : Word60) : (setX s i v).ppus = s.ppus := rfl
@[simp] theorem setX_cur (s : State) (i : Reg) (v : Word60) : (setX s i v).cur = s.cur := rfl
@[simp] theorem setX_mcuSwitch (s : State) (i : Reg) (v : Word60) : (setX s i v).mcuSwitch = s.mcuSwitch := rfl
@[simp] theorem setX_scmLatch (s : State) (i : Reg) (v : Word60) : (setX s i v).scmLatch = s.scmLatch := rfl
@[simp] theorem setX_lcmLatch (s : State) (i : Reg) (v : Word60) : (setX s i v).lcmLatch = s.lcmLatch := rfl
@[simp] theorem setX_scmBad (s : State) (i : Reg) (v : Word60) : (setX s i v).scmBad = s.scmBad := rfl
@[simp] theorem setX_lcmBad (s : State) (i : Reg) (v : Word60) : (setX s i v).lcmBad = s.lcmBad := rfl
@[simp] theorem setX_scmQueue (s : State) (i : Reg) (v : Word60) : (setX s i v).scmQueue = s.scmQueue := rfl
@[simp] theorem setX_mcuOut (s : State) (i : Reg) (v : Word60) : (setX s i v).mcuOut = s.mcuOut := rfl
@[simp] theorem setX_sched (s : State) (i : Reg) (v : Word60) : (setX s i v).sched = s.sched := rfl
@[simp] theorem setX_tick (s : State) (i : Reg) (v : Word60) : (setX s i v).tick = s.tick := rfl
@[simp] theorem setX_cpu_x (s : State) (i : Reg) (v : Word60) : (setX s i v).cpu.x = s.cpu.x.set i v := rfl
@[simp] theorem setX_cpu_a (s : State) (i : Reg) (v : Word60) : (setX s i v).cpu.a = s.cpu.a := rfl
@[simp] theorem setX_cpu_b (s : State) (i : Reg) (v : Word60) : (setX s i v).cpu.b = s.cpu.b := rfl
@[simp] theorem setX_cpu_p (s : State) (i : Reg) (v : Word60) : (setX s i v).cpu.p = s.cpu.p := rfl
@[simp] theorem setX_cpu_ras (s : State) (i : Reg) (v : Word60) : (setX s i v).cpu.ras = s.cpu.ras := rfl
@[simp] theorem setX_cpu_fls (s : State) (i : Reg) (v : Word60) : (setX s i v).cpu.fls = s.cpu.fls := rfl
@[simp] theorem setX_cpu_ral (s : State) (i : Reg) (v : Word60) : (setX s i v).cpu.ral = s.cpu.ral := rfl
@[simp] theorem setX_cpu_fll (s : State) (i : Reg) (v : Word60) : (setX s i v).cpu.fll = s.cpu.fll := rfl
@[simp] theorem setX_cpu_psd (s : State) (i : Reg) (v : Word60) : (setX s i v).cpu.psd = s.cpu.psd := rfl
@[simp] theorem setX_cpu_nea (s : State) (i : Reg) (v : Word60) : (setX s i v).cpu.nea = s.cpu.nea := rfl
@[simp] theorem setX_cpu_eea (s : State) (i : Reg) (v : Word60) : (setX s i v).cpu.eea = s.cpu.eea := rfl
@[simp] theorem setX_cpu_bpa (s : State) (i : Reg) (v : Word60) : (setX s i v).cpu.bpa = s.cpu.bpa := rfl
@[simp] theorem setX_cpu_ciw (s : State) (i : Reg) (v : Word60) : (setX s i v).cpu.ciw = s.cpu.ciw := rfl
@[simp] theorem setX_cpu_parcel (s : State) (i : Reg) (v : Word60) : (setX s i v).cpu.parcel = s.cpu.parcel := rfl
@[simp] theorem setX_cpu_iws (s : State) (i : Reg) (v : Word60) : (setX s i v).cpu.iws = s.cpu.iws := rfl
@[simp] theorem setX_cpu_slip (s : State) (i : Reg) (v : Word60) : (setX s i v).cpu.slip = s.cpu.slip := rfl
@[simp] theorem setX_cpu_phase (s : State) (i : Reg) (v : Word60) : (setX s i v).cpu.phase = s.cpu.phase := rfl
@[simp] theorem setX_cpu_flow (s : State) (i : Reg) (v : Word60) : (setX s i v).cpu.flow = s.cpu.flow := rfl
@[simp] theorem setX_cpu_recent (s : State) (i : Reg) (v : Word60) : (setX s i v).cpu.recent = s.cpu.recent := rfl
@[simp] theorem setX_cpu_afterReset (s : State) (i : Reg) (v : Word60) : (setX s i v).cpu.afterReset = s.cpu.afterReset := rfl
@[simp] theorem setX_cpu_didReset (s : State) (i : Reg) (v : Word60) : (setX s i v).cpu.didReset = s.cpu.didReset := rfl
@[simp] theorem setX_cpu_issued (s : State) (i : Reg) (v : Word60) : (setX s i v).cpu.issued = s.cpu.issued := rfl
@[simp] theorem setX_cpu_inc30 (s : State) (i : Reg) (v : Word60) : (setX s i v).cpu.inc30 = s.cpu.inc30 := rfl
@[simp] theorem setX_cpu_branched (s : State) (i : Reg) (v : Word60) : (setX s i v).cpu.branched = s.cpu.branched := rfl
@[simp] theorem setX_cpu_seqInc (s : State) (i : Reg) (v : Word60) : (setX s i v).cpu.seqInc = s.cpu.seqInc := rfl
@[simp] theorem setX_cpu_parityLate (s : State) (i : Reg) (v : Word60) : (setX s i v).cpu.parityLate = s.cpu.parityLate := rfl

/-! `setAReg` -/

@[simp] theorem setAReg_cfg (s : State) (i : Reg) (v : Word18) : (setAReg s i v).cfg = s.cfg := rfl
@[simp] theorem setAReg_scm (s : State) (i : Reg) (v : Word18) : (setAReg s i v).scm = s.scm := rfl
@[simp] theorem setAReg_lcm (s : State) (i : Reg) (v : Word18) : (setAReg s i v).lcm = s.lcm := rfl
@[simp] theorem setAReg_clk (s : State) (i : Reg) (v : Word18) : (setAReg s i v).clk = s.clk := rfl
@[simp] theorem setAReg_rtcFlag (s : State) (i : Reg) (v : Word18) : (setAReg s i v).rtcFlag = s.rtcFlag := rfl
@[simp] theorem setAReg_mux (s : State) (i : Reg) (v : Word18) : (setAReg s i v).mux = s.mux := rfl
@[simp] theorem setAReg_ppus (s : State) (i : Reg) (v : Word18) : (setAReg s i v).ppus = s.ppus := rfl
@[simp] theorem setAReg_cur (s : State) (i : Reg) (v : Word18) : (setAReg s i v).cur = s.cur := rfl
@[simp] theorem setAReg_mcuSwitch (s : State) (i : Reg) (v : Word18) : (setAReg s i v).mcuSwitch = s.mcuSwitch := rfl
@[simp] theorem setAReg_scmLatch (s : State) (i : Reg) (v : Word18) : (setAReg s i v).scmLatch = s.scmLatch := rfl
@[simp] theorem setAReg_lcmLatch (s : State) (i : Reg) (v : Word18) : (setAReg s i v).lcmLatch = s.lcmLatch := rfl
@[simp] theorem setAReg_scmBad (s : State) (i : Reg) (v : Word18) : (setAReg s i v).scmBad = s.scmBad := rfl
@[simp] theorem setAReg_lcmBad (s : State) (i : Reg) (v : Word18) : (setAReg s i v).lcmBad = s.lcmBad := rfl
@[simp] theorem setAReg_scmQueue (s : State) (i : Reg) (v : Word18) : (setAReg s i v).scmQueue = s.scmQueue := rfl
@[simp] theorem setAReg_mcuOut (s : State) (i : Reg) (v : Word18) : (setAReg s i v).mcuOut = s.mcuOut := rfl
@[simp] theorem setAReg_sched (s : State) (i : Reg) (v : Word18) : (setAReg s i v).sched = s.sched := rfl
@[simp] theorem setAReg_tick (s : State) (i : Reg) (v : Word18) : (setAReg s i v).tick = s.tick := rfl
@[simp] theorem setAReg_cpu_x (s : State) (i : Reg) (v : Word18) : (setAReg s i v).cpu.x = s.cpu.x := rfl
@[simp] theorem setAReg_cpu_a (s : State) (i : Reg) (v : Word18) : (setAReg s i v).cpu.a = s.cpu.a.set i v := rfl
@[simp] theorem setAReg_cpu_b (s : State) (i : Reg) (v : Word18) : (setAReg s i v).cpu.b = s.cpu.b := rfl
@[simp] theorem setAReg_cpu_p (s : State) (i : Reg) (v : Word18) : (setAReg s i v).cpu.p = s.cpu.p := rfl
@[simp] theorem setAReg_cpu_ras (s : State) (i : Reg) (v : Word18) : (setAReg s i v).cpu.ras = s.cpu.ras := rfl
@[simp] theorem setAReg_cpu_fls (s : State) (i : Reg) (v : Word18) : (setAReg s i v).cpu.fls = s.cpu.fls := rfl
@[simp] theorem setAReg_cpu_ral (s : State) (i : Reg) (v : Word18) : (setAReg s i v).cpu.ral = s.cpu.ral := rfl
@[simp] theorem setAReg_cpu_fll (s : State) (i : Reg) (v : Word18) : (setAReg s i v).cpu.fll = s.cpu.fll := rfl
@[simp] theorem setAReg_cpu_psd (s : State) (i : Reg) (v : Word18) : (setAReg s i v).cpu.psd = s.cpu.psd := rfl
@[simp] theorem setAReg_cpu_nea (s : State) (i : Reg) (v : Word18) : (setAReg s i v).cpu.nea = s.cpu.nea := rfl
@[simp] theorem setAReg_cpu_eea (s : State) (i : Reg) (v : Word18) : (setAReg s i v).cpu.eea = s.cpu.eea := rfl
@[simp] theorem setAReg_cpu_bpa (s : State) (i : Reg) (v : Word18) : (setAReg s i v).cpu.bpa = s.cpu.bpa := rfl
@[simp] theorem setAReg_cpu_ciw (s : State) (i : Reg) (v : Word18) : (setAReg s i v).cpu.ciw = s.cpu.ciw := rfl
@[simp] theorem setAReg_cpu_parcel (s : State) (i : Reg) (v : Word18) : (setAReg s i v).cpu.parcel = s.cpu.parcel := rfl
@[simp] theorem setAReg_cpu_iws (s : State) (i : Reg) (v : Word18) : (setAReg s i v).cpu.iws = s.cpu.iws := rfl
@[simp] theorem setAReg_cpu_slip (s : State) (i : Reg) (v : Word18) : (setAReg s i v).cpu.slip = s.cpu.slip := rfl
@[simp] theorem setAReg_cpu_phase (s : State) (i : Reg) (v : Word18) : (setAReg s i v).cpu.phase = s.cpu.phase := rfl
@[simp] theorem setAReg_cpu_flow (s : State) (i : Reg) (v : Word18) : (setAReg s i v).cpu.flow = s.cpu.flow := rfl
@[simp] theorem setAReg_cpu_recent (s : State) (i : Reg) (v : Word18) : (setAReg s i v).cpu.recent = s.cpu.recent := rfl
@[simp] theorem setAReg_cpu_afterReset (s : State) (i : Reg) (v : Word18) : (setAReg s i v).cpu.afterReset = s.cpu.afterReset := rfl
@[simp] theorem setAReg_cpu_didReset (s : State) (i : Reg) (v : Word18) : (setAReg s i v).cpu.didReset = s.cpu.didReset := rfl
@[simp] theorem setAReg_cpu_issued (s : State) (i : Reg) (v : Word18) : (setAReg s i v).cpu.issued = s.cpu.issued := rfl
@[simp] theorem setAReg_cpu_inc30 (s : State) (i : Reg) (v : Word18) : (setAReg s i v).cpu.inc30 = s.cpu.inc30 := rfl
@[simp] theorem setAReg_cpu_branched (s : State) (i : Reg) (v : Word18) : (setAReg s i v).cpu.branched = s.cpu.branched := rfl
@[simp] theorem setAReg_cpu_seqInc (s : State) (i : Reg) (v : Word18) : (setAReg s i v).cpu.seqInc = s.cpu.seqInc := rfl
@[simp] theorem setAReg_cpu_parityLate (s : State) (i : Reg) (v : Word18) : (setAReg s i v).cpu.parityLate = s.cpu.parityLate := rfl

/-! `setFlag` -/

@[simp] theorem setFlag_cfg (s : State) (f : PsdFlag) : (setFlag s f).cfg = s.cfg := rfl
@[simp] theorem setFlag_scm (s : State) (f : PsdFlag) : (setFlag s f).scm = s.scm := rfl
@[simp] theorem setFlag_lcm (s : State) (f : PsdFlag) : (setFlag s f).lcm = s.lcm := rfl
@[simp] theorem setFlag_clk (s : State) (f : PsdFlag) : (setFlag s f).clk = s.clk := rfl
@[simp] theorem setFlag_rtcFlag (s : State) (f : PsdFlag) : (setFlag s f).rtcFlag = s.rtcFlag := rfl
@[simp] theorem setFlag_mux (s : State) (f : PsdFlag) : (setFlag s f).mux = s.mux := rfl
@[simp] theorem setFlag_ppus (s : State) (f : PsdFlag) : (setFlag s f).ppus = s.ppus := rfl
@[simp] theorem setFlag_cur (s : State) (f : PsdFlag) : (setFlag s f).cur = s.cur := rfl
@[simp] theorem setFlag_mcuSwitch (s : State) (f : PsdFlag) : (setFlag s f).mcuSwitch = s.mcuSwitch := rfl
@[simp] theorem setFlag_scmLatch (s : State) (f : PsdFlag) : (setFlag s f).scmLatch = s.scmLatch := rfl
@[simp] theorem setFlag_lcmLatch (s : State) (f : PsdFlag) : (setFlag s f).lcmLatch = s.lcmLatch := rfl
@[simp] theorem setFlag_scmBad (s : State) (f : PsdFlag) : (setFlag s f).scmBad = s.scmBad := rfl
@[simp] theorem setFlag_lcmBad (s : State) (f : PsdFlag) : (setFlag s f).lcmBad = s.lcmBad := rfl
@[simp] theorem setFlag_scmQueue (s : State) (f : PsdFlag) : (setFlag s f).scmQueue = s.scmQueue := rfl
@[simp] theorem setFlag_mcuOut (s : State) (f : PsdFlag) : (setFlag s f).mcuOut = s.mcuOut := rfl
@[simp] theorem setFlag_sched (s : State) (f : PsdFlag) : (setFlag s f).sched = s.sched := rfl
@[simp] theorem setFlag_tick (s : State) (f : PsdFlag) : (setFlag s f).tick = s.tick := rfl
@[simp] theorem setFlag_cpu_x (s : State) (f : PsdFlag) : (setFlag s f).cpu.x = s.cpu.x := rfl
@[simp] theorem setFlag_cpu_a (s : State) (f : PsdFlag) : (setFlag s f).cpu.a = s.cpu.a := rfl
@[simp] theorem setFlag_cpu_b (s : State) (f : PsdFlag) : (setFlag s f).cpu.b = s.cpu.b := rfl
@[simp] theorem setFlag_cpu_p (s : State) (f : PsdFlag) : (setFlag s f).cpu.p = s.cpu.p := rfl
@[simp] theorem setFlag_cpu_ras (s : State) (f : PsdFlag) : (setFlag s f).cpu.ras = s.cpu.ras := rfl
@[simp] theorem setFlag_cpu_fls (s : State) (f : PsdFlag) : (setFlag s f).cpu.fls = s.cpu.fls := rfl
@[simp] theorem setFlag_cpu_ral (s : State) (f : PsdFlag) : (setFlag s f).cpu.ral = s.cpu.ral := rfl
@[simp] theorem setFlag_cpu_fll (s : State) (f : PsdFlag) : (setFlag s f).cpu.fll = s.cpu.fll := rfl
@[simp] theorem setFlag_cpu_psd (s : State) (f : PsdFlag) : (setFlag s f).cpu.psd = s.cpu.psd ||| BitVec.twoPow 18 (psdBit f) := rfl
@[simp] theorem setFlag_cpu_nea (s : State) (f : PsdFlag) : (setFlag s f).cpu.nea = s.cpu.nea := rfl
@[simp] theorem setFlag_cpu_eea (s : State) (f : PsdFlag) : (setFlag s f).cpu.eea = s.cpu.eea := rfl
@[simp] theorem setFlag_cpu_bpa (s : State) (f : PsdFlag) : (setFlag s f).cpu.bpa = s.cpu.bpa := rfl
@[simp] theorem setFlag_cpu_ciw (s : State) (f : PsdFlag) : (setFlag s f).cpu.ciw = s.cpu.ciw := rfl
@[simp] theorem setFlag_cpu_parcel (s : State) (f : PsdFlag) : (setFlag s f).cpu.parcel = s.cpu.parcel := rfl
@[simp] theorem setFlag_cpu_iws (s : State) (f : PsdFlag) : (setFlag s f).cpu.iws = s.cpu.iws := rfl
@[simp] theorem setFlag_cpu_slip (s : State) (f : PsdFlag) : (setFlag s f).cpu.slip = s.cpu.slip := rfl
@[simp] theorem setFlag_cpu_phase (s : State) (f : PsdFlag) : (setFlag s f).cpu.phase = s.cpu.phase := rfl
@[simp] theorem setFlag_cpu_flow (s : State) (f : PsdFlag) : (setFlag s f).cpu.flow = s.cpu.flow := rfl
@[simp] theorem setFlag_cpu_recent (s : State) (f : PsdFlag) : (setFlag s f).cpu.recent = s.cpu.recent := rfl
@[simp] theorem setFlag_cpu_afterReset (s : State) (f : PsdFlag) : (setFlag s f).cpu.afterReset = s.cpu.afterReset := rfl
@[simp] theorem setFlag_cpu_didReset (s : State) (f : PsdFlag) : (setFlag s f).cpu.didReset = s.cpu.didReset := rfl
@[simp] theorem setFlag_cpu_issued (s : State) (f : PsdFlag) : (setFlag s f).cpu.issued = s.cpu.issued := rfl
@[simp] theorem setFlag_cpu_inc30 (s : State) (f : PsdFlag) : (setFlag s f).cpu.inc30 = s.cpu.inc30 := rfl
@[simp] theorem setFlag_cpu_branched (s : State) (f : PsdFlag) : (setFlag s f).cpu.branched = s.cpu.branched := rfl
@[simp] theorem setFlag_cpu_seqInc (s : State) (f : PsdFlag) : (setFlag s f).cpu.seqInc = s.cpu.seqInc := rfl
@[simp] theorem setFlag_cpu_parityLate (s : State) (f : PsdFlag) : (setFlag s f).cpu.parityLate = s.cpu.parityLate := rfl

/-! `jumpTo` -/

@[simp] theorem jumpTo_cfg (s : State) (w : Word18) : (jumpTo s w).cfg = s.cfg := rfl
@[simp] theorem jumpTo_scm (s : State) (w : Word18) : (jumpTo s w).scm = s.scm := rfl
@[simp] theorem jumpTo_lcm (s : State) (w : Word18) : (jumpTo s w).lcm = s.lcm := rfl
@[simp] theorem jumpTo_clk (s : State) (w : Word18) : (jumpTo s w).clk = s.clk := rfl
@[simp] theorem jumpTo_rtcFlag (s : State) (w : Word18) : (jumpTo s w).rtcFlag = s.rtcFlag := rfl
@[simp] theorem jumpTo_mux (s : State) (w : Word18) : (jumpTo s w).mux = s.mux := rfl
@[simp] theorem jumpTo_ppus (s : State) (w : Word18) : (jumpTo s w).ppus = s.ppus := rfl
@[simp] theorem jumpTo_cur (s : State) (w : Word18) : (jumpTo s w).cur = s.cur := rfl
@[simp] theorem jumpTo_mcuSwitch (s : State) (w : Word18) : (jumpTo s w).mcuSwitch = s.mcuSwitch := rfl
@[simp] theorem jumpTo_scmLatch (s : State) (w : Word18) : (jumpTo s w).scmLatch = s.scmLatch := rfl
@[simp] theorem jumpTo_lcmLatch (s : State) (w : Word18) : (jumpTo s w).lcmLatch = s.lcmLatch := rfl
@[simp] theorem jumpTo_scmBad (s : State) (w : Word18) : (jumpTo s w).scmBad = s.scmBad := rfl
@[simp] theorem jumpTo_lcmBad (s : State) (w : Word18) : (jumpTo s w).lcmBad = s.lcmBad := rfl
@[simp] theorem jumpTo_scmQueue (s : State) (w : Word18) : (jumpTo s w).scmQueue = s.scmQueue := rfl
@[simp] theorem jumpTo_mcuOut (s : State) (w : Word18) : (jumpTo s w).mcuOut = s.mcuOut := rfl
@[simp] theorem jumpTo_sched (s : State) (w : Word18) : (jumpTo s w).sched = s.sched := rfl
@[simp] theorem jumpTo_tick (s : State) (w : Word18) : (jumpTo s w).tick = s.tick := rfl
@[simp] theorem jumpTo_cpu_x (s : State) (w : Word18) : (jumpTo s w).cpu.x = s.cpu.x := rfl
@[simp] theorem jumpTo_cpu_a (s : State) (w : Word18) : (jumpTo s w).cpu.a = s.cpu.a := rfl
@[simp] theorem jumpTo_cpu_b (s : State) (w : Word18) : (jumpTo s w).cpu.b = s.cpu.b := rfl
@[simp] theorem jumpTo_cpu_p (s : State) (w : Word18) : (jumpTo s w).cpu.p = s.cpu.p := rfl
@[simp] theorem jumpTo_cpu_ras (s : State) (w : Word18) : (jumpTo s w).cpu.ras = s.cpu.ras := rfl
@[simp] theorem jumpTo_cpu_fls (s : State) (w : Word18) : (jumpTo s w).cpu.fls = s.cpu.fls := rfl
@[simp] theorem jumpTo_cpu_ral (s : State) (w : Word18) : (jumpTo s w).cpu.ral = s.cpu.ral := rfl
@[simp] theorem jumpTo_cpu_fll (s : State) (w : Word18) : (jumpTo s w).cpu.fll = s.cpu.fll := rfl
@[simp] theorem jumpTo_cpu_psd (s : State) (w : Word18) : (jumpTo s w).cpu.psd = s.cpu.psd := rfl
@[simp] theorem jumpTo_cpu_nea (s : State) (w : Word18) : (jumpTo s w).cpu.nea = s.cpu.nea := rfl
@[simp] theorem jumpTo_cpu_eea (s : State) (w : Word18) : (jumpTo s w).cpu.eea = s.cpu.eea := rfl
@[simp] theorem jumpTo_cpu_bpa (s : State) (w : Word18) : (jumpTo s w).cpu.bpa = s.cpu.bpa := rfl
@[simp] theorem jumpTo_cpu_ciw (s : State) (w : Word18) : (jumpTo s w).cpu.ciw = s.cpu.ciw := rfl
@[simp] theorem jumpTo_cpu_parcel (s : State) (w : Word18) : (jumpTo s w).cpu.parcel = s.cpu.parcel := rfl
@[simp] theorem jumpTo_cpu_iws (s : State) (w : Word18) : (jumpTo s w).cpu.iws = s.cpu.iws := rfl
@[simp] theorem jumpTo_cpu_slip (s : State) (w : Word18) : (jumpTo s w).cpu.slip = s.cpu.slip := rfl
@[simp] theorem jumpTo_cpu_phase (s : State) (w : Word18) : (jumpTo s w).cpu.phase = s.cpu.phase := rfl
@[simp] theorem jumpTo_cpu_flow (s : State) (w : Word18) : (jumpTo s w).cpu.flow = .jump w := rfl
@[simp] theorem jumpTo_cpu_recent (s : State) (w : Word18) : (jumpTo s w).cpu.recent = s.cpu.recent := rfl
@[simp] theorem jumpTo_cpu_afterReset (s : State) (w : Word18) : (jumpTo s w).cpu.afterReset = s.cpu.afterReset := rfl
@[simp] theorem jumpTo_cpu_didReset (s : State) (w : Word18) : (jumpTo s w).cpu.didReset = s.cpu.didReset := rfl
@[simp] theorem jumpTo_cpu_issued (s : State) (w : Word18) : (jumpTo s w).cpu.issued = s.cpu.issued := rfl
@[simp] theorem jumpTo_cpu_inc30 (s : State) (w : Word18) : (jumpTo s w).cpu.inc30 = s.cpu.inc30 := rfl
@[simp] theorem jumpTo_cpu_branched (s : State) (w : Word18) : (jumpTo s w).cpu.branched = s.cpu.branched := rfl
@[simp] theorem jumpTo_cpu_seqInc (s : State) (w : Word18) : (jumpTo s w).cpu.seqInc = s.cpu.seqInc := rfl
@[simp] theorem jumpTo_cpu_parityLate (s : State) (w : Word18) : (jumpTo s w).cpu.parityLate = s.cpu.parityLate := rfl

/-! `didReset` -/

@[simp] theorem didReset_cfg (s : State) (k : ResetKind) : (didReset s k).cfg = s.cfg := rfl
@[simp] theorem didReset_scm (s : State) (k : ResetKind) : (didReset s k).scm = s.scm := rfl
@[simp] theorem didReset_lcm (s : State) (k : ResetKind) : (didReset s k).lcm = s.lcm := rfl
@[simp] theorem didReset_clk (s : State) (k : ResetKind) : (didReset s k).clk = s.clk := rfl
@[simp] theorem didReset_rtcFlag (s : State) (k : ResetKind) : (didReset s k).rtcFlag = s.rtcFlag := rfl
@[simp] theorem didReset_mux (s : State) (k : ResetKind) : (didReset s k).mux = s.mux := rfl
@[simp] theorem didReset_ppus (s : State) (k : ResetKind) : (didReset s k).ppus = s.ppus := rfl
@[simp] theorem didReset_cur (s : State) (k : ResetKind) : (didReset s k).cur = s.cur := rfl
@[simp] theorem didReset_mcuSwitch (s : State) (k : ResetKind) : (didReset s k).mcuSwitch = s.mcuSwitch := rfl
@[simp] theorem didReset_scmLatch (s : State) (k : ResetKind) : (didReset s k).scmLatch = s.scmLatch := rfl
@[simp] theorem didReset_lcmLatch (s : State) (k : ResetKind) : (didReset s k).lcmLatch = s.lcmLatch := rfl
@[simp] theorem didReset_scmBad (s : State) (k : ResetKind) : (didReset s k).scmBad = s.scmBad := rfl
@[simp] theorem didReset_lcmBad (s : State) (k : ResetKind) : (didReset s k).lcmBad = s.lcmBad := rfl
@[simp] theorem didReset_scmQueue (s : State) (k : ResetKind) : (didReset s k).scmQueue = s.scmQueue := rfl
@[simp] theorem didReset_mcuOut (s : State) (k : ResetKind) : (didReset s k).mcuOut = s.mcuOut := rfl
@[simp] theorem didReset_sched (s : State) (k : ResetKind) : (didReset s k).sched = s.sched := rfl
@[simp] theorem didReset_tick (s : State) (k : ResetKind) : (didReset s k).tick = s.tick := rfl
@[simp] theorem didReset_cpu_x (s : State) (k : ResetKind) : (didReset s k).cpu.x = s.cpu.x := rfl
@[simp] theorem didReset_cpu_a (s : State) (k : ResetKind) : (didReset s k).cpu.a = s.cpu.a := rfl
@[simp] theorem didReset_cpu_b (s : State) (k : ResetKind) : (didReset s k).cpu.b = s.cpu.b := rfl
@[simp] theorem didReset_cpu_p (s : State) (k : ResetKind) : (didReset s k).cpu.p = s.cpu.p := rfl
@[simp] theorem didReset_cpu_ras (s : State) (k : ResetKind) : (didReset s k).cpu.ras = s.cpu.ras := rfl
@[simp] theorem didReset_cpu_fls (s : State) (k : ResetKind) : (didReset s k).cpu.fls = s.cpu.fls := rfl
@[simp] theorem didReset_cpu_ral (s : State) (k : ResetKind) : (didReset s k).cpu.ral = s.cpu.ral := rfl
@[simp] theorem didReset_cpu_fll (s : State) (k : ResetKind) : (didReset s k).cpu.fll = s.cpu.fll := rfl
@[simp] theorem didReset_cpu_psd (s : State) (k : ResetKind) : (didReset s k).cpu.psd = s.cpu.psd := rfl
@[simp] theorem didReset_cpu_nea (s : State) (k : ResetKind) : (didReset s k).cpu.nea = s.cpu.nea := rfl
@[simp] theorem didReset_cpu_eea (s : State) (k : ResetKind) : (didReset s k).cpu.eea = s.cpu.eea := rfl
@[simp] theorem didReset_cpu_bpa (s : State) (k : ResetKind) : (didReset s k).cpu.bpa = s.cpu.bpa := rfl
@[simp] theorem didReset_cpu_ciw (s : State) (k : ResetKind) : (didReset s k).cpu.ciw = s.cpu.ciw := rfl
@[simp] theorem didReset_cpu_parcel (s : State) (k : ResetKind) : (didReset s k).cpu.parcel = s.cpu.parcel := rfl
@[simp] theorem didReset_cpu_iws (s : State) (k : ResetKind) : (didReset s k).cpu.iws = s.cpu.iws := rfl
@[simp] theorem didReset_cpu_slip (s : State) (k : ResetKind) : (didReset s k).cpu.slip = s.cpu.slip := rfl
@[simp] theorem didReset_cpu_phase (s : State) (k : ResetKind) : (didReset s k).cpu.phase = s.cpu.phase := rfl
@[simp] theorem didReset_cpu_flow (s : State) (k : ResetKind) : (didReset s k).cpu.flow = s.cpu.flow := rfl
@[simp] theorem didReset_cpu_recent (s : State) (k : ResetKind) : (didReset s k).cpu.recent = s.cpu.recent := rfl
@[simp] theorem didReset_cpu_afterReset (s : State) (k : ResetKind) : (didReset s k).cpu.afterReset = s.cpu.afterReset := rfl
@[simp] theorem didReset_cpu_didReset (s : State) (k : ResetKind) : (didReset s k).cpu.didReset = some k := rfl
@[simp] theorem didReset_cpu_issued (s : State) (k : ResetKind) : (didReset s k).cpu.issued = s.cpu.issued := rfl
@[simp] theorem didReset_cpu_inc30 (s : State) (k : ResetKind) : (didReset s k).cpu.inc30 = s.cpu.inc30 := rfl
@[simp] theorem didReset_cpu_branched (s : State) (k : ResetKind) : (didReset s k).cpu.branched = s.cpu.branched := rfl
@[simp] theorem didReset_cpu_seqInc (s : State) (k : ResetKind) : (didReset s k).cpu.seqInc = s.cpu.seqInc := rfl
@[simp] theorem didReset_cpu_parityLate (s : State) (k : ResetKind) : (didReset s k).cpu.parityLate = s.cpu.parityLate := rfl

/-! `noteRef` -/

@[simp] theorem noteRef_cfg (s : State) (r : ScmRef) : (noteRef s r).cfg = s.cfg := rfl
@[simp] theorem noteRef_scm (s : State) (r : ScmRef) : (noteRef s r).scm = s.scm := rfl
@[simp] theorem noteRef_lcm (s : State) (r : ScmRef) : (noteRef s r).lcm = s.lcm := rfl
@[simp] theorem noteRef_clk (s : State) (r : ScmRef) : (noteRef s r).clk = s.clk := rfl
@[simp] theorem noteRef_rtcFlag (s : State) (r : ScmRef) : (noteRef s r).rtcFlag = s.rtcFlag := rfl
@[simp] theorem noteRef_mux (s : State) (r : ScmRef) : (noteRef s r).mux = s.mux := rfl
@[simp] theorem noteRef_ppus (s : State) (r : ScmRef) : (noteRef s r).ppus = s.ppus := rfl
@[simp] theorem noteRef_cur (s : State) (r : ScmRef) : (noteRef s r).cur = s.cur := rfl
@[simp] theorem noteRef_mcuSwitch (s : State) (r : ScmRef) : (noteRef s r).mcuSwitch = s.mcuSwitch := rfl
@[simp] theorem noteRef_scmLatch (s : State) (r : ScmRef) : (noteRef s r).scmLatch = s.scmLatch := rfl
@[simp] theorem noteRef_lcmLatch (s : State) (r : ScmRef) : (noteRef s r).lcmLatch = s.lcmLatch := rfl
@[simp] theorem noteRef_scmBad (s : State) (r : ScmRef) : (noteRef s r).scmBad = s.scmBad := rfl
@[simp] theorem noteRef_lcmBad (s : State) (r : ScmRef) : (noteRef s r).lcmBad = s.lcmBad := rfl
@[simp] theorem noteRef_scmQueue (s : State) (r : ScmRef) : (noteRef s r).scmQueue = s.scmQueue := rfl
@[simp] theorem noteRef_mcuOut (s : State) (r : ScmRef) : (noteRef s r).mcuOut = s.mcuOut := rfl
@[simp] theorem noteRef_sched (s : State) (r : ScmRef) : (noteRef s r).sched = s.sched := rfl
@[simp] theorem noteRef_tick (s : State) (r : ScmRef) : (noteRef s r).tick = s.tick := rfl
@[simp] theorem noteRef_cpu_x (s : State) (r : ScmRef) : (noteRef s r).cpu.x = s.cpu.x := rfl
@[simp] theorem noteRef_cpu_a (s : State) (r : ScmRef) : (noteRef s r).cpu.a = s.cpu.a := rfl
@[simp] theorem noteRef_cpu_b (s : State) (r : ScmRef) : (noteRef s r).cpu.b = s.cpu.b := rfl
@[simp] theorem noteRef_cpu_p (s : State) (r : ScmRef) : (noteRef s r).cpu.p = s.cpu.p := rfl
@[simp] theorem noteRef_cpu_ras (s : State) (r : ScmRef) : (noteRef s r).cpu.ras = s.cpu.ras := rfl
@[simp] theorem noteRef_cpu_fls (s : State) (r : ScmRef) : (noteRef s r).cpu.fls = s.cpu.fls := rfl
@[simp] theorem noteRef_cpu_ral (s : State) (r : ScmRef) : (noteRef s r).cpu.ral = s.cpu.ral := rfl
@[simp] theorem noteRef_cpu_fll (s : State) (r : ScmRef) : (noteRef s r).cpu.fll = s.cpu.fll := rfl
@[simp] theorem noteRef_cpu_psd (s : State) (r : ScmRef) : (noteRef s r).cpu.psd = s.cpu.psd := rfl
@[simp] theorem noteRef_cpu_nea (s : State) (r : ScmRef) : (noteRef s r).cpu.nea = s.cpu.nea := rfl
@[simp] theorem noteRef_cpu_eea (s : State) (r : ScmRef) : (noteRef s r).cpu.eea = s.cpu.eea := rfl
@[simp] theorem noteRef_cpu_bpa (s : State) (r : ScmRef) : (noteRef s r).cpu.bpa = s.cpu.bpa := rfl
@[simp] theorem noteRef_cpu_ciw (s : State) (r : ScmRef) : (noteRef s r).cpu.ciw = s.cpu.ciw := rfl
@[simp] theorem noteRef_cpu_parcel (s : State) (r : ScmRef) : (noteRef s r).cpu.parcel = s.cpu.parcel := rfl
@[simp] theorem noteRef_cpu_iws (s : State) (r : ScmRef) : (noteRef s r).cpu.iws = s.cpu.iws := rfl
@[simp] theorem noteRef_cpu_slip (s : State) (r : ScmRef) : (noteRef s r).cpu.slip = s.cpu.slip := rfl
@[simp] theorem noteRef_cpu_phase (s : State) (r : ScmRef) : (noteRef s r).cpu.phase = s.cpu.phase := rfl
@[simp] theorem noteRef_cpu_flow (s : State) (r : ScmRef) : (noteRef s r).cpu.flow = s.cpu.flow := rfl
@[simp] theorem noteRef_cpu_recent (s : State) (r : ScmRef) : (noteRef s r).cpu.recent = (r :: s.cpu.recent).take 2 := rfl
@[simp] theorem noteRef_cpu_afterReset (s : State) (r : ScmRef) : (noteRef s r).cpu.afterReset = s.cpu.afterReset := rfl
@[simp] theorem noteRef_cpu_didReset (s : State) (r : ScmRef) : (noteRef s r).cpu.didReset = s.cpu.didReset := rfl
@[simp] theorem noteRef_cpu_issued (s : State) (r : ScmRef) : (noteRef s r).cpu.issued = s.cpu.issued := rfl
@[simp] theorem noteRef_cpu_inc30 (s : State) (r : ScmRef) : (noteRef s r).cpu.inc30 = s.cpu.inc30 := rfl
@[simp] theorem noteRef_cpu_branched (s : State) (r : ScmRef) : (noteRef s r).cpu.branched = s.cpu.branched := rfl
@[simp] theorem noteRef_cpu_seqInc (s : State) (r : ScmRef) : (noteRef s r).cpu.seqInc = s.cpu.seqInc := rfl
@[simp] theorem noteRef_cpu_parityLate (s : State) (r : ScmRef) : (noteRef s r).cpu.parityLate = s.cpu.parityLate := rfl

/-! `scmForget` -/

@[simp] theorem scmForget_cfg (s : State) (a : ScmAddr) : (scmForget s a).cfg = s.cfg := rfl
@[simp] theorem scmForget_scm (s : State) (a : ScmAddr) : (scmForget s a).scm = s.scm := rfl
@[simp] theorem scmForget_lcm (s : State) (a : ScmAddr) : (scmForget s a).lcm = s.lcm := rfl
@[simp] theorem scmForget_clk (s : State) (a : ScmAddr) : (scmForget s a).clk = s.clk := rfl
@[simp] theorem scmForget_rtcFlag (s : State) (a : ScmAddr) : (scmForget s a).rtcFlag = s.rtcFlag := rfl
@[simp] theorem scmForget_mux (s : State) (a : ScmAddr) : (scmForget s a).mux = s.mux := rfl
@[simp] theorem scmForget_ppus (s : State) (a : ScmAddr) : (scmForget s a).ppus = s.ppus := rfl
@[simp] theorem scmForget_cur (s : State) (a : ScmAddr) : (scmForget s a).cur = s.cur := rfl
@[simp] theorem scmForget_mcuSwitch (s : State) (a : ScmAddr) : (scmForget s a).mcuSwitch = s.mcuSwitch := rfl
@[simp] theorem scmForget_scmLatch (s : State) (a : ScmAddr) : (scmForget s a).scmLatch = s.scmLatch := rfl
@[simp] theorem scmForget_lcmLatch (s : State) (a : ScmAddr) : (scmForget s a).lcmLatch = s.lcmLatch := rfl
@[simp] theorem scmForget_scmBad (s : State) (a : ScmAddr) : (scmForget s a).scmBad = s.scmBad := rfl
@[simp] theorem scmForget_lcmBad (s : State) (a : ScmAddr) : (scmForget s a).lcmBad = s.lcmBad := rfl
@[simp] theorem scmForget_scmQueue (s : State) (a : ScmAddr) : (scmForget s a).scmQueue = s.scmQueue := rfl
@[simp] theorem scmForget_mcuOut (s : State) (a : ScmAddr) : (scmForget s a).mcuOut = s.mcuOut := rfl
@[simp] theorem scmForget_sched (s : State) (a : ScmAddr) : (scmForget s a).sched = s.sched := rfl
@[simp] theorem scmForget_tick (s : State) (a : ScmAddr) : (scmForget s a).tick = s.tick := rfl
@[simp] theorem scmForget_cpu_x (s : State) (a : ScmAddr) : (scmForget s a).cpu.x = s.cpu.x := rfl
@[simp] theorem scmForget_cpu_a (s : State) (a : ScmAddr) : (scmForget s a).cpu.a = s.cpu.a := rfl
@[simp] theorem scmForget_cpu_b (s : State) (a : ScmAddr) : (scmForget s a).cpu.b = s.cpu.b := rfl
@[simp] theorem scmForget_cpu_p (s : State) (a : ScmAddr) : (scmForget s a).cpu.p = s.cpu.p := rfl
@[simp] theorem scmForget_cpu_ras (s : State) (a : ScmAddr) : (scmForget s a).cpu.ras = s.cpu.ras := rfl
@[simp] theorem scmForget_cpu_fls (s : State) (a : ScmAddr) : (scmForget s a).cpu.fls = s.cpu.fls := rfl
@[simp] theorem scmForget_cpu_ral (s : State) (a : ScmAddr) : (scmForget s a).cpu.ral = s.cpu.ral := rfl
@[simp] theorem scmForget_cpu_fll (s : State) (a : ScmAddr) : (scmForget s a).cpu.fll = s.cpu.fll := rfl
@[simp] theorem scmForget_cpu_psd (s : State) (a : ScmAddr) : (scmForget s a).cpu.psd = s.cpu.psd := rfl
@[simp] theorem scmForget_cpu_nea (s : State) (a : ScmAddr) : (scmForget s a).cpu.nea = s.cpu.nea := rfl
@[simp] theorem scmForget_cpu_eea (s : State) (a : ScmAddr) : (scmForget s a).cpu.eea = s.cpu.eea := rfl
@[simp] theorem scmForget_cpu_bpa (s : State) (a : ScmAddr) : (scmForget s a).cpu.bpa = s.cpu.bpa := rfl
@[simp] theorem scmForget_cpu_ciw (s : State) (a : ScmAddr) : (scmForget s a).cpu.ciw = s.cpu.ciw := rfl
@[simp] theorem scmForget_cpu_parcel (s : State) (a : ScmAddr) : (scmForget s a).cpu.parcel = s.cpu.parcel := rfl
@[simp] theorem scmForget_cpu_iws (s : State) (a : ScmAddr) : (scmForget s a).cpu.iws = s.cpu.iws := rfl
@[simp] theorem scmForget_cpu_slip (s : State) (a : ScmAddr) : (scmForget s a).cpu.slip = s.cpu.slip := rfl
@[simp] theorem scmForget_cpu_phase (s : State) (a : ScmAddr) : (scmForget s a).cpu.phase = s.cpu.phase := rfl
@[simp] theorem scmForget_cpu_flow (s : State) (a : ScmAddr) : (scmForget s a).cpu.flow = s.cpu.flow := rfl
@[simp] theorem scmForget_cpu_recent (s : State) (a : ScmAddr) : (scmForget s a).cpu.recent = s.cpu.recent.map (settleRef a) := rfl
@[simp] theorem scmForget_cpu_afterReset (s : State) (a : ScmAddr) : (scmForget s a).cpu.afterReset = s.cpu.afterReset := rfl
@[simp] theorem scmForget_cpu_didReset (s : State) (a : ScmAddr) : (scmForget s a).cpu.didReset = s.cpu.didReset := rfl
@[simp] theorem scmForget_cpu_issued (s : State) (a : ScmAddr) : (scmForget s a).cpu.issued = s.cpu.issued := rfl
@[simp] theorem scmForget_cpu_inc30 (s : State) (a : ScmAddr) : (scmForget s a).cpu.inc30 = s.cpu.inc30 := rfl
@[simp] theorem scmForget_cpu_branched (s : State) (a : ScmAddr) : (scmForget s a).cpu.branched = s.cpu.branched := rfl
@[simp] theorem scmForget_cpu_seqInc (s : State) (a : ScmAddr) : (scmForget s a).cpu.seqInc = s.cpu.seqInc := rfl
@[simp] theorem scmForget_cpu_parityLate (s : State) (a : ScmAddr) : (scmForget s a).cpu.parityLate = s.cpu.parityLate := rfl

/-! `setIn` -/

@[simp] theorem setIn_cfg (s : State) (c : Unit16) (m : MuxIn) : (setIn s c m).cfg = s.cfg := rfl
@[simp] theorem setIn_scm (s : State) (c : Unit16) (m : MuxIn) : (setIn s c m).scm = s.scm := rfl
@[simp] theorem setIn_lcm (s : State) (c : Unit16) (m : MuxIn) : (setIn s c m).lcm = s.lcm := rfl
@[simp] theorem setIn_clk (s : State) (c : Unit16) (m : MuxIn) : (setIn s c m).clk = s.clk := rfl
@[simp] theorem setIn_rtcFlag (s : State) (c : Unit16) (m : MuxIn) : (setIn s c m).rtcFlag = s.rtcFlag := rfl
@[simp] theorem setIn_mux (s : State) (c : Unit16) (m : MuxIn) : (setIn s c m).mux = s.mux.set c { s.mux[c] with inp := m } := rfl
@[simp] theorem setIn_ppus (s : State) (c : Unit16) (m : MuxIn) : (setIn s c m).ppus = s.ppus := rfl
@[simp] theorem setIn_cur (s : State) (c : Unit16) (m : MuxIn) : (setIn s c m).cur = s.cur := rfl
@[simp] theorem setIn_mcuSwitch (s : State) (c : Unit16) (m : MuxIn) : (setIn s c m).mcuSwitch = s.mcuSwitch := rfl
@[simp] theorem setIn_scmLatch (s : State) (c : Unit16) (m : MuxIn) : (setIn s c m).scmLatch = s.scmLatch := rfl
@[simp] theorem setIn_lcmLatch (s : State) (c : Unit16) (m : MuxIn) : (setIn s c m).lcmLatch = s.lcmLatch := rfl
@[simp] theorem setIn_scmBad (s : State) (c : Unit16) (m : MuxIn) : (setIn s c m).scmBad = s.scmBad := rfl
@[simp] theorem setIn_lcmBad (s : State) (c : Unit16) (m : MuxIn) : (setIn s c m).lcmBad = s.lcmBad := rfl
@[simp] theorem setIn_scmQueue (s : State) (c : Unit16) (m : MuxIn) : (setIn s c m).scmQueue = s.scmQueue := rfl
@[simp] theorem setIn_mcuOut (s : State) (c : Unit16) (m : MuxIn) : (setIn s c m).mcuOut = s.mcuOut := rfl
@[simp] theorem setIn_sched (s : State) (c : Unit16) (m : MuxIn) : (setIn s c m).sched = s.sched := rfl
@[simp] theorem setIn_tick (s : State) (c : Unit16) (m : MuxIn) : (setIn s c m).tick = s.tick := rfl
@[simp] theorem setIn_cpu (s : State) (c : Unit16) (m : MuxIn) : (setIn s c m).cpu = s.cpu := rfl

/-! `setOut` -/

@[simp] theorem setOut_cfg (s : State) (c : Unit16) (m : MuxOut) : (setOut s c m).cfg = s.cfg := rfl
@[simp] theorem setOut_scm (s : State) (c : Unit16) (m : MuxOut) : (setOut s c m).scm = s.scm := rfl
@[simp] theorem setOut_lcm (s : State) (c : Unit16) (m : MuxOut) : (setOut s c m).lcm = s.lcm := rfl
@[simp] theorem setOut_clk (s : State) (c : Unit16) (m : MuxOut) : (setOut s c m).clk = s.clk := rfl
@[simp] theorem setOut_rtcFlag (s : State) (c : Unit16) (m : MuxOut) : (setOut s c m).rtcFlag = s.rtcFlag := rfl
@[simp] theorem setOut_mux (s : State) (c : Unit16) (m : MuxOut) : (setOut s c m).mux = s.mux.set c { s.mux[c] with out := m } := rfl
@[simp] theorem setOut_ppus (s : State) (c : Unit16) (m : MuxOut) : (setOut s c m).ppus = s.ppus := rfl
@[simp] theorem setOut_cur (s : State) (c : Unit16) (m : MuxOut) : (setOut s c m).cur = s.cur := rfl
@[simp] theorem setOut_mcuSwitch (s : State) (c : Unit16) (m : MuxOut) : (setOut s c m).mcuSwitch = s.mcuSwitch := rfl
@[simp] theorem setOut_scmLatch (s : State) (c : Unit16) (m : MuxOut) : (setOut s c m).scmLatch = s.scmLatch := rfl
@[simp] theorem setOut_lcmLatch (s : State) (c : Unit16) (m : MuxOut) : (setOut s c m).lcmLatch = s.lcmLatch := rfl
@[simp] theorem setOut_scmBad (s : State) (c : Unit16) (m : MuxOut) : (setOut s c m).scmBad = s.scmBad := rfl
@[simp] theorem setOut_lcmBad (s : State) (c : Unit16) (m : MuxOut) : (setOut s c m).lcmBad = s.lcmBad := rfl
@[simp] theorem setOut_scmQueue (s : State) (c : Unit16) (m : MuxOut) : (setOut s c m).scmQueue = s.scmQueue := rfl
@[simp] theorem setOut_mcuOut (s : State) (c : Unit16) (m : MuxOut) : (setOut s c m).mcuOut = s.mcuOut := rfl
@[simp] theorem setOut_sched (s : State) (c : Unit16) (m : MuxOut) : (setOut s c m).sched = s.sched := rfl
@[simp] theorem setOut_tick (s : State) (c : Unit16) (m : MuxOut) : (setOut s c m).tick = s.tick := rfl
@[simp] theorem setOut_cpu (s : State) (c : Unit16) (m : MuxOut) : (setOut s c m).cpu = s.cpu := rfl

/-! `setPpu` -/

@[simp] theorem setPpu_cfg (s : State) (u : Ppu) : (setPpu s u).cfg = s.cfg := rfl
@[simp] theorem setPpu_scm (s : State) (u : Ppu) : (setPpu s u).scm = s.scm := rfl
@[simp] theorem setPpu_lcm (s : State) (u : Ppu) : (setPpu s u).lcm = s.lcm := rfl
@[simp] theorem setPpu_clk (s : State) (u : Ppu) : (setPpu s u).clk = s.clk := rfl
@[simp] theorem setPpu_rtcFlag (s : State) (u : Ppu) : (setPpu s u).rtcFlag = s.rtcFlag := rfl
@[simp] theorem setPpu_mux (s : State) (u : Ppu) : (setPpu s u).mux = s.mux := rfl
@[simp] theorem setPpu_ppus (s : State) (u : Ppu) : (setPpu s u).ppus = s.ppus.set s.cur u := rfl
@[simp] theorem setPpu_cur (s : State) (u : Ppu) : (setPpu s u).cur = s.cur := rfl
@[simp] theorem setPpu_mcuSwitch (s : State) (u : Ppu) : (setPpu s u).mcuSwitch = s.mcuSwitch := rfl
@[simp] theorem setPpu_scmLatch (s : State) (u : Ppu) : (setPpu s u).scmLatch = s.scmLatch := rfl
@[simp] theorem setPpu_lcmLatch (s : State) (u : Ppu) : (setPpu s u).lcmLatch = s.lcmLatch := rfl
@[simp] theorem setPpu_scmBad (s : State) (u : Ppu) : (setPpu s u).scmBad = s.scmBad := rfl
@[simp] theorem setPpu_lcmBad (s : State) (u : Ppu) : (setPpu s u).lcmBad = s.lcmBad := rfl
@[simp] theorem setPpu_scmQueue (s : State) (u : Ppu) : (setPpu s u).scmQueue = s.scmQueue := rfl
@[simp] theorem setPpu_mcuOut (s : State) (u : Ppu) : (setPpu s u).mcuOut = s.mcuOut := rfl
@[simp] theorem setPpu_sched (s : State) (u : Ppu) : (setPpu s u).sched = s.sched := rfl
@[simp] theorem setPpu_tick (s : State) (u : Ppu) : (setPpu s u).tick = s.tick := rfl
@[simp] theorem setPpu_cpu (s : State) (u : Ppu) : (setPpu s u).cpu = s.cpu := rfl

/-! `updPpu` -/

@[simp] theorem updPpu_cfg (s : State) (u : Unit16) (f : Ppu → Ppu) : (updPpu s u f).cfg = s.cfg := rfl
@[simp] theorem updPpu_scm (s : State) (u : Unit16) (f : Ppu → Ppu) : (updPpu s u f).scm = s.scm := rfl
@[simp] theorem updPpu_lcm (s : State) (u : Unit16) (f : Ppu → Ppu) : (updPpu s u f).lcm = s.lcm := rfl
@[simp] theorem updPpu_clk (s : State) (u : Unit16) (f : Ppu → Ppu) : (updPpu s u f).clk = s.clk := rfl
@[simp] theorem updPpu_rtcFlag (s : State) (u : Unit16) (f : Ppu → Ppu) : (updPpu s u f).rtcFlag = s.rtcFlag := rfl
@[simp] theorem updPpu_mux (s : State) (u : Unit16) (f : Ppu → Ppu) : (updPpu s u f).mux = s.mux := rfl
@[simp] theorem updPpu_ppus (s : State) (u : Unit16) (f : Ppu → Ppu) : (updPpu s u f).ppus = s.ppus.set u (f s.ppus[u]) := rfl
@[simp] theorem updPpu_cur (s : State) (u : Unit16) (f : Ppu → Ppu) : (updPpu s u f).cur = s.cur := rfl
@[simp] theorem updPpu_mcuSwitch (s : State) (u : Unit16) (f : Ppu → Ppu) : (updPpu s u f).mcuSwitch = s.mcuSwitch := rfl
@[simp] theorem updPpu_scmLatch (s : State) (u : Unit16) (f : Ppu → Ppu) : (updPpu s u f).scmLatch = s.scmLatch := rfl
@[simp] theorem updPpu_lcmLatch (s : State) (u : Unit16) (f : Ppu → Ppu) : (updPpu s u f).lcmLatch = s.lcmLatch := rfl
@[simp] theorem updPpu_scmBad (s : State) (u : Unit16) (f : Ppu → Ppu) : (updPpu s u f).scmBad = s.scmBad := rfl
@[simp] theorem updPpu_lcmBad (s : State) (u : Unit16) (f : Ppu → Ppu) : (updPpu s u f).lcmBad = s.lcmBad := rfl
@[simp] theorem updPpu_scmQueue (s : State) (u : Unit16) (f : Ppu → Ppu) : (updPpu s u f).scmQueue = s.scmQueue := rfl
@[simp] theorem updPpu_mcuOut (s : State) (u : Unit16) (f : Ppu → Ppu) : (updPpu s u f).mcuOut = s.mcuOut := rfl
@[simp] theorem updPpu_sched (s : State) (u : Unit16) (f : Ppu → Ppu) : (updPpu s u f).sched = s.sched := rfl
@[simp] theorem updPpu_tick (s : State) (u : Unit16) (f : Ppu → Ppu) : (updPpu s u f).tick = s.tick := rfl
@[simp] theorem updPpu_cpu (s : State) (u : Unit16) (f : Ppu → Ppu) : (updPpu s u f).cpu = s.cpu := rfl

/-! `releaseLockouts` -/

@[simp] theorem releaseLockouts_cfg (s : State) : (releaseLockouts s).cfg = s.cfg := rfl
@[simp] theorem releaseLockouts_scm (s : State) : (releaseLockouts s).scm = s.scm := rfl
@[simp] theorem releaseLockouts_lcm (s : State) : (releaseLockouts s).lcm = s.lcm := rfl
@[simp] theorem releaseLockouts_clk (s : State) : (releaseLockouts s).clk = s.clk := rfl
@[simp] theorem releaseLockouts_rtcFlag (s : State) : (releaseLockouts s).rtcFlag = s.rtcFlag := rfl
@[simp] theorem releaseLockouts_mux (s : State) : (releaseLockouts s).mux = s.mux.map (fun ch => { inp := ch.inp.release, out := ch.out.release }) := rfl
@[simp] theorem releaseLockouts_ppus (s : State) : (releaseLockouts s).ppus = s.ppus := rfl
@[simp] theorem releaseLockouts_cur (s : State) : (releaseLockouts s).cur = s.cur := rfl
@[simp] theorem releaseLockouts_mcuSwitch (s : State) : (releaseLockouts s).mcuSwitch = s.mcuSwitch := rfl
@[simp] theorem releaseLockouts_scmLatch (s : State) : (releaseLockouts s).scmLatch = s.scmLatch := rfl
@[simp] theorem releaseLockouts_lcmLatch (s : State) : (releaseLockouts s).lcmLatch = s.lcmLatch := rfl
@[simp] theorem releaseLockouts_scmBad (s : State) : (releaseLockouts s).scmBad = s.scmBad := rfl
@[simp] theorem releaseLockouts_lcmBad (s : State) : (releaseLockouts s).lcmBad = s.lcmBad := rfl
@[simp] theorem releaseLockouts_scmQueue (s : State) : (releaseLockouts s).scmQueue = s.scmQueue := rfl
@[simp] theorem releaseLockouts_mcuOut (s : State) : (releaseLockouts s).mcuOut = s.mcuOut := rfl
@[simp] theorem releaseLockouts_sched (s : State) : (releaseLockouts s).sched = s.sched := rfl
@[simp] theorem releaseLockouts_tick (s : State) : (releaseLockouts s).tick = s.tick := rfl
@[simp] theorem releaseLockouts_cpu (s : State) : (releaseLockouts s).cpu = s.cpu := rfl

/-! `scmServed` -/

@[simp] theorem scmServed_cfg (s : State) (r : ScmRequest) : (scmServed s r).cfg = s.cfg := rfl
@[simp] theorem scmServed_scm (s : State) (r : ScmRequest) : (scmServed s r).scm = s.scm := rfl
@[simp] theorem scmServed_lcm (s : State) (r : ScmRequest) : (scmServed s r).lcm = s.lcm := rfl
@[simp] theorem scmServed_clk (s : State) (r : ScmRequest) : (scmServed s r).clk = s.clk := rfl
@[simp] theorem scmServed_rtcFlag (s : State) (r : ScmRequest) : (scmServed s r).rtcFlag = s.rtcFlag := rfl
@[simp] theorem scmServed_mux (s : State) (r : ScmRequest) : (scmServed s r).mux = s.mux := rfl
@[simp] theorem scmServed_ppus (s : State) (r : ScmRequest) : (scmServed s r).ppus = s.ppus := rfl
@[simp] theorem scmServed_cur (s : State) (r : ScmRequest) : (scmServed s r).cur = s.cur := rfl
@[simp] theorem scmServed_mcuSwitch (s : State) (r : ScmRequest) : (scmServed s r).mcuSwitch = s.mcuSwitch := rfl
@[simp] theorem scmServed_scmLatch (s : State) (r : ScmRequest) : (scmServed s r).scmLatch = s.scmLatch := rfl
@[simp] theorem scmServed_lcmLatch (s : State) (r : ScmRequest) : (scmServed s r).lcmLatch = s.lcmLatch := rfl
@[simp] theorem scmServed_scmBad (s : State) (r : ScmRequest) : (scmServed s r).scmBad = s.scmBad := rfl
@[simp] theorem scmServed_lcmBad (s : State) (r : ScmRequest) : (scmServed s r).lcmBad = s.lcmBad := rfl
@[simp] theorem scmServed_scmQueue (s : State) (r : ScmRequest) : (scmServed s r).scmQueue = s.scmQueue.erase r := rfl
@[simp] theorem scmServed_mcuOut (s : State) (r : ScmRequest) : (scmServed s r).mcuOut = s.mcuOut := rfl
@[simp] theorem scmServed_sched (s : State) (r : ScmRequest) : (scmServed s r).sched = s.sched := rfl
@[simp] theorem scmServed_tick (s : State) (r : ScmRequest) : (scmServed s r).tick = s.tick := rfl
@[simp] theorem scmServed_cpu (s : State) (r : ScmRequest) : (scmServed s r).cpu = s.cpu := rfl

/-! `cpuServed` -/

@[simp] theorem cpuServed_cfg (s : State) : (cpuServed s).cfg = s.cfg := rfl
@[simp] theorem cpuServed_scm (s : State) : (cpuServed s).scm = s.scm := rfl
@[simp] theorem cpuServed_lcm (s : State) : (cpuServed s).lcm = s.lcm := rfl
@[simp] theorem cpuServed_clk (s : State) : (cpuServed s).clk = s.clk := rfl
@[simp] theorem cpuServed_rtcFlag (s : State) : (cpuServed s).rtcFlag = s.rtcFlag := rfl
@[simp] theorem cpuServed_mux (s : State) : (cpuServed s).mux = s.mux := rfl
@[simp] theorem cpuServed_ppus (s : State) : (cpuServed s).ppus = s.ppus := rfl
@[simp] theorem cpuServed_cur (s : State) : (cpuServed s).cur = s.cur := rfl
@[simp] theorem cpuServed_mcuSwitch (s : State) : (cpuServed s).mcuSwitch = s.mcuSwitch := rfl
@[simp] theorem cpuServed_scmLatch (s : State) : (cpuServed s).scmLatch = s.scmLatch := rfl
@[simp] theorem cpuServed_lcmLatch (s : State) : (cpuServed s).lcmLatch = s.lcmLatch := rfl
@[simp] theorem cpuServed_scmBad (s : State) : (cpuServed s).scmBad = s.scmBad := rfl
@[simp] theorem cpuServed_lcmBad (s : State) : (cpuServed s).lcmBad = s.lcmBad := rfl
@[simp] theorem cpuServed_scmQueue (s : State) : (cpuServed s).scmQueue = s.scmQueue.filter (fun r => !r.ofCpu) := rfl
@[simp] theorem cpuServed_mcuOut (s : State) : (cpuServed s).mcuOut = s.mcuOut := rfl
@[simp] theorem cpuServed_sched (s : State) : (cpuServed s).sched = s.sched := rfl
@[simp] theorem cpuServed_tick (s : State) : (cpuServed s).tick = s.tick := rfl
@[simp] theorem cpuServed_cpu (s : State) : (cpuServed s).cpu = s.cpu := rfl

/-! `resumeLevels` -/

@[simp] theorem resumeLevels_cfg (s : State) : (resumeLevels s).cfg = s.cfg := rfl
@[simp] theorem resumeLevels_scm (s : State) : (resumeLevels s).scm = s.scm := rfl
@[simp] theorem resumeLevels_lcm (s : State) : (resumeLevels s).lcm = s.lcm := rfl
@[simp] theorem resumeLevels_clk (s : State) : (resumeLevels s).clk = s.clk := rfl
@[simp] theorem resumeLevels_rtcFlag (s : State) : (resumeLevels s).rtcFlag = s.rtcFlag := rfl
@[simp] theorem resumeLevels_mux (s : State) : (resumeLevels s).mux = s.mux := rfl
@[simp] theorem resumeLevels_ppus (s : State) : (resumeLevels s).ppus = levelPpus s.cfg s.mux s.ppus := rfl
@[simp] theorem resumeLevels_cur (s : State) : (resumeLevels s).cur = s.cur := rfl
@[simp] theorem resumeLevels_mcuSwitch (s : State) : (resumeLevels s).mcuSwitch = s.mcuSwitch := rfl
@[simp] theorem resumeLevels_scmLatch (s : State) : (resumeLevels s).scmLatch = s.scmLatch := rfl
@[simp] theorem resumeLevels_lcmLatch (s : State) : (resumeLevels s).lcmLatch = s.lcmLatch := rfl
@[simp] theorem resumeLevels_scmBad (s : State) : (resumeLevels s).scmBad = s.scmBad := rfl
@[simp] theorem resumeLevels_lcmBad (s : State) : (resumeLevels s).lcmBad = s.lcmBad := rfl
@[simp] theorem resumeLevels_scmQueue (s : State) : (resumeLevels s).scmQueue = s.scmQueue := rfl
@[simp] theorem resumeLevels_mcuOut (s : State) : (resumeLevels s).mcuOut = s.mcuOut := rfl
@[simp] theorem resumeLevels_sched (s : State) : (resumeLevels s).sched = s.sched := rfl
@[simp] theorem resumeLevels_tick (s : State) : (resumeLevels s).tick = s.tick := rfl
@[simp] theorem resumeLevels_cpu (s : State) : (resumeLevels s).cpu = s.cpu := rfl

/-! `exchangeJump` -/

@[simp] theorem exchangeJump_cfg (s : State) (a : ScmAddr) (p : Word18) (who : Initiator) : (exchangeJump s a p who).cfg = s.cfg := rfl
@[simp] theorem exchangeJump_scm (s : State) (a : ScmAddr) (p : Word18) (who : Initiator) : (exchangeJump s a p who).scm = s.scm := rfl
@[simp] theorem exchangeJump_lcm (s : State) (a : ScmAddr) (p : Word18) (who : Initiator) : (exchangeJump s a p who).lcm = s.lcm := rfl
@[simp] theorem exchangeJump_clk (s : State) (a : ScmAddr) (p : Word18) (who : Initiator) : (exchangeJump s a p who).clk = s.clk := rfl
@[simp] theorem exchangeJump_rtcFlag (s : State) (a : ScmAddr) (p : Word18) (who : Initiator) : (exchangeJump s a p who).rtcFlag = s.rtcFlag := rfl
@[simp] theorem exchangeJump_mux (s : State) (a : ScmAddr) (p : Word18) (who : Initiator) : (exchangeJump s a p who).mux = s.mux := rfl
@[simp] theorem exchangeJump_ppus (s : State) (a : ScmAddr) (p : Word18) (who : Initiator) : (exchangeJump s a p who).ppus = s.ppus := rfl
@[simp] theorem exchangeJump_cur (s : State) (a : ScmAddr) (p : Word18) (who : Initiator) : (exchangeJump s a p who).cur = s.cur := rfl
@[simp] theorem exchangeJump_mcuSwitch (s : State) (a : ScmAddr) (p : Word18) (who : Initiator) : (exchangeJump s a p who).mcuSwitch = s.mcuSwitch := rfl
@[simp] theorem exchangeJump_scmLatch (s : State) (a : ScmAddr) (p : Word18) (who : Initiator) : (exchangeJump s a p who).scmLatch = s.scmLatch := rfl
@[simp] theorem exchangeJump_lcmLatch (s : State) (a : ScmAddr) (p : Word18) (who : Initiator) : (exchangeJump s a p who).lcmLatch = s.lcmLatch := rfl
@[simp] theorem exchangeJump_scmBad (s : State) (a : ScmAddr) (p : Word18) (who : Initiator) : (exchangeJump s a p who).scmBad = s.scmBad := rfl
@[simp] theorem exchangeJump_lcmBad (s : State) (a : ScmAddr) (p : Word18) (who : Initiator) : (exchangeJump s a p who).lcmBad = s.lcmBad := rfl
@[simp] theorem exchangeJump_scmQueue (s : State) (a : ScmAddr) (p : Word18) (who : Initiator) : (exchangeJump s a p who).scmQueue = s.scmQueue := rfl
@[simp] theorem exchangeJump_mcuOut (s : State) (a : ScmAddr) (p : Word18) (who : Initiator) : (exchangeJump s a p who).mcuOut = s.mcuOut := rfl
@[simp] theorem exchangeJump_sched (s : State) (a : ScmAddr) (p : Word18) (who : Initiator) : (exchangeJump s a p who).sched = s.sched := rfl
@[simp] theorem exchangeJump_tick (s : State) (a : ScmAddr) (p : Word18) (who : Initiator) : (exchangeJump s a p who).tick = s.tick := rfl
@[simp] theorem exchangeJump_cpu_x (s : State) (a : ScmAddr) (p : Word18) (who : Initiator) : (exchangeJump s a p who).cpu.x = s.cpu.x := rfl
@[simp] theorem exchangeJump_cpu_a (s : State) (a : ScmAddr) (p : Word18) (who : Initiator) : (exchangeJump s a p who).cpu.a = s.cpu.a := rfl
@[simp] theorem exchangeJump_cpu_b (s : State) (a : ScmAddr) (p : Word18) (who : Initiator) : (exchangeJump s a p who).cpu.b = s.cpu.b := rfl
@[simp] theorem exchangeJump_cpu_p (s : State) (a : ScmAddr) (p : Word18) (who : Initiator) : (exchangeJump s a p who).cpu.p = s.cpu.p := rfl
@[simp] theorem exchangeJump_cpu_ras (s : State) (a : ScmAddr) (p : Word18) (who : Initiator) : (exchangeJump s a p who).cpu.ras = s.cpu.ras := rfl
@[simp] theorem exchangeJump_cpu_fls (s : State) (a : ScmAddr) (p : Word18) (who : Initiator) : (exchangeJump s a p who).cpu.fls = s.cpu.fls := rfl
@[simp] theorem exchangeJump_cpu_ral (s : State) (a : ScmAddr) (p : Word18) (who : Initiator) : (exchangeJump s a p who).cpu.ral = s.cpu.ral := rfl
@[simp] theorem exchangeJump_cpu_fll (s : State) (a : ScmAddr) (p : Word18) (who : Initiator) : (exchangeJump s a p who).cpu.fll = s.cpu.fll := rfl
@[simp] theorem exchangeJump_cpu_psd (s : State) (a : ScmAddr) (p : Word18) (who : Initiator) : (exchangeJump s a p who).cpu.psd = s.cpu.psd := rfl
@[simp] theorem exchangeJump_cpu_nea (s : State) (a : ScmAddr) (p : Word18) (who : Initiator) : (exchangeJump s a p who).cpu.nea = s.cpu.nea := rfl
@[simp] theorem exchangeJump_cpu_eea (s : State) (a : ScmAddr) (p : Word18) (who : Initiator) : (exchangeJump s a p who).cpu.eea = s.cpu.eea := rfl
@[simp] theorem exchangeJump_cpu_bpa (s : State) (a : ScmAddr) (p : Word18) (who : Initiator) : (exchangeJump s a p who).cpu.bpa = s.cpu.bpa := rfl
@[simp] theorem exchangeJump_cpu_ciw (s : State) (a : ScmAddr) (p : Word18) (who : Initiator) : (exchangeJump s a p who).cpu.ciw = s.cpu.ciw := rfl
@[simp] theorem exchangeJump_cpu_parcel (s : State) (a : ScmAddr) (p : Word18) (who : Initiator) : (exchangeJump s a p who).cpu.parcel = s.cpu.parcel := rfl
@[simp] theorem exchangeJump_cpu_iws (s : State) (a : ScmAddr) (p : Word18) (who : Initiator) : (exchangeJump s a p who).cpu.iws = s.cpu.iws := rfl
@[simp] theorem exchangeJump_cpu_slip (s : State) (a : ScmAddr) (p : Word18) (who : Initiator) : (exchangeJump s a p who).cpu.slip = s.cpu.slip := rfl
@[simp] theorem exchangeJump_cpu_phase (s : State) (a : ScmAddr) (p : Word18) (who : Initiator) : (exchangeJump s a p who).cpu.phase = .exchanging ⟨a, p, who, Vector.replicate 16 none, Vector.replicate 16 false⟩ := rfl
@[simp] theorem exchangeJump_cpu_flow (s : State) (a : ScmAddr) (p : Word18) (who : Initiator) : (exchangeJump s a p who).cpu.flow = .exited := rfl
@[simp] theorem exchangeJump_cpu_recent (s : State) (a : ScmAddr) (p : Word18) (who : Initiator) : (exchangeJump s a p who).cpu.recent = s.cpu.recent := rfl
@[simp] theorem exchangeJump_cpu_afterReset (s : State) (a : ScmAddr) (p : Word18) (who : Initiator) : (exchangeJump s a p who).cpu.afterReset = s.cpu.afterReset := rfl
@[simp] theorem exchangeJump_cpu_didReset (s : State) (a : ScmAddr) (p : Word18) (who : Initiator) : (exchangeJump s a p who).cpu.didReset = s.cpu.didReset := rfl
@[simp] theorem exchangeJump_cpu_issued (s : State) (a : ScmAddr) (p : Word18) (who : Initiator) : (exchangeJump s a p who).cpu.issued = s.cpu.issued := rfl
@[simp] theorem exchangeJump_cpu_inc30 (s : State) (a : ScmAddr) (p : Word18) (who : Initiator) : (exchangeJump s a p who).cpu.inc30 = s.cpu.inc30 := rfl
@[simp] theorem exchangeJump_cpu_branched (s : State) (a : ScmAddr) (p : Word18) (who : Initiator) : (exchangeJump s a p who).cpu.branched = s.cpu.branched := rfl
@[simp] theorem exchangeJump_cpu_seqInc (s : State) (a : ScmAddr) (p : Word18) (who : Initiator) : (exchangeJump s a p who).cpu.seqInc = s.cpu.seqInc := rfl
@[simp] theorem exchangeJump_cpu_parityLate (s : State) (a : ScmAddr) (p : Word18) (who : Initiator) : (exchangeJump s a p who).cpu.parityLate = false := rfl

/-! ### Registers -/

@[simp] theorem getX_setX_same (s : State) (i : Reg) (v : Word60) : getX (setX s i v) i = v := by simp [getX]

theorem getX_setX_other (s : State) (i r : Reg) (v : Word60) (h : r ≠ i) : getX (setX s i v) r = getX s r := by
  have : (i : Nat) ≠ r := fun e => h (Fin.ext e.symm)
  simp [getX, this]

@[simp] theorem getB_zero (s : State) : getB s 0 = 0 := rfl

theorem getB_setB_same (s : State) (i : Reg) (v : Word18) (h : i ≠ 0) : getB (setB s i v) i = v := by
  simp [getB, setB, h]

theorem getB_setB_other (s : State) (i r : Reg) (v : Word18) (h : r ≠ i) : getB (setB s i v) r = getB s r := by
  have hn : (i : Nat) ≠ r := fun e => h (Fin.ext e.symm)
  unfold setB
  split
  · rfl
  · simp [getB, hn]

@[simp] theorem setB_zero (s : State) (v : Word18) : setB s 0 v = s := rfl

@[simp] theorem getPpu_setPpu (s : State) (u : Ppu) : getPpu (setPpu s u) = u := by simp [getPpu]

theorem setPpu_other (s : State) (u : Ppu) (n : Unit16) (h : n ≠ s.cur) : (setPpu s u).ppus[n] = s.ppus[n] := by
  have : (s.cur : Nat) ≠ n := fun e => h (Fin.ext e.symm)
  simp [this]

end Sys2Proof.Machine
end

