-- ==== Sys2Proof/Laws/Keep.lean ====
section
/-!
SUPPORT. What the shared operations keep: each lemma says that one operation keeps the invariant `Inv` (Safety.lean).
-/

namespace Sys2Proof.Machine

open Sys2Proof

/-! ### Memories -/

theorem memDel_mem {w : Nat} (m : Mem w) (a : Nat) (c : Nat × BitVec w) (h : c ∈ memDel m a) : c ∈ m :=
  (List.mem_filter.1 h).1

theorem memOk_write {w n : Nat} {m : Mem w} {a : Nat} (v : BitVec w) (h : MemOk n m) (ha : a < n) :
    MemOk n (memWrite m a v) := by
  refine ⟨memWrite_wf m a v h.1, fun c hc => ?_⟩
  unfold memWrite at hc
  split at hc
  · exact h.2 c (memDel_mem m a c hc)
  · rcases memPut_mem m a v c hc with rfl | hc
    · exact ha
    · exact h.2 c hc

/-! ### The CPU -/

/-- A phase outside a block copy and an exchange sequence. -/
def Phase.Plain (p : Phase) : Prop := (∀ r, p ≠ .copying r) ∧ ∀ x, p ≠ .exchanging x

/-- `CpuOk` looks at eight fields. -/
theorem CpuOk.congr {cfg : Config} {c d : Cpu} (h : CpuOk cfg c) (hb : d.b[0] = c.b[0]) (hi : d.iws = c.iws)
    (hr : d.recent = c.recent) (ha : d.ras = c.ras) (hf : d.fls = c.fls) (hl : d.fll = c.fll) (hs : d.slip = c.slip)
    (hp : d.phase = c.phase ∨ d.phase.Plain) : CpuOk cfg d where
  b0 := hb.trans h.b0
  stack12 := hi ▸ h.stack12
  recent2 := hr ▸ h.recent2
  inField := by rw [hr, ha, hf]; exact h.inField
  slipBound := by rw [hs]; exact h.slipBound
  copyIn := by
    rcases hp with hp | hp
    · rw [hp, hf, hl]; exact h.copyIn
    · exact fun r e => absurd e (hp.1 r)
  readFirst := by
    rcases hp with hp | hp
    · rw [hp]; exact h.readFirst
    · exact fun x e => absurd e (hp.2 x)

/-- A new execution interval starts well. -/
theorem cpuOk_beginInterval (cfg : Config) (c : Cpu) (h : c.b[0] = 0) : CpuOk cfg (beginInterval c) where
  b0 := h
  stack12 := by simp [beginInterval]
  recent2 := by simp [beginInterval]
  inField := by simp [beginInterval]
  slipBound := by simp [beginInterval]
  copyIn := by simp [beginInterval]
  readFirst := by simp [beginInterval]

theorem Inv.setCpu {s : State} (h : Inv s) {c : Cpu} (hc : CpuOk s.cfg c) : Inv { s with cpu := c } :=
  ⟨h.scm, h.lcm, h.ppu, hc, h.mux⟩

/-- A change of the CPU that `CpuOk` does not look at. -/
theorem Inv.cpuSame {s : State} (h : Inv s) {c : Cpu} (hb : c.b[0] = s.cpu.b[0]) (hi : c.iws = s.cpu.iws)
    (hr : c.recent = s.cpu.recent) (ha : c.ras = s.cpu.ras) (hf : c.fls = s.cpu.fls) (hl : c.fll = s.cpu.fll)
    (hs : c.slip = s.cpu.slip) (hp : c.phase = s.cpu.phase ∨ c.phase.Plain) : Inv { s with cpu := c } :=
  h.setCpu (h.cpu.congr hb hi hr ha hf hl hs hp)

theorem setX_inv {s : State} (h : Inv s) (i : Reg) (v : Word60) : Inv (setX s i v) := h.cpuSame rfl rfl rfl rfl rfl rfl rfl (.inl rfl)

theorem setAReg_inv {s : State} (h : Inv s) (i : Reg) (v : Word18) : Inv (setAReg s i v) :=
  h.cpuSame rfl rfl rfl rfl rfl rfl rfl (.inl rfl)

theorem setB_inv {s : State} (h : Inv s) (i : Reg) (v : Word18) : Inv (setB s i v) := by
  unfold setB
  split
  · exact h
  · rename_i hi
    refine h.cpuSame ?_ rfl rfl rfl rfl rfl rfl (.inl rfl)
    have : (i : Nat) ≠ 0 := fun e => hi (Fin.ext e)
    simp [this]

theorem setFlag_inv {s : State} (h : Inv s) (f : PsdFlag) : Inv (setFlag s f) := h.cpuSame rfl rfl rfl rfl rfl rfl rfl (.inl rfl)

theorem setFlagIf_inv {s : State} (h : Inv s) (c : Bool) (f : PsdFlag) : Inv (setFlagIf s c f) := by
  unfold setFlagIf; split
  · exact setFlag_inv h f
  · exact h

theorem jumpTo_inv {s : State} (h : Inv s) (t : Word18) : Inv (jumpTo s t) := h.cpuSame rfl rfl rfl rfl rfl rfl rfl (.inl rfl)

theorem jumpIf_inv {s : State} (h : Inv s) (c : Bool) (t : Word18) : Inv (jumpIf s c t) := by
  unfold jumpIf; split
  · exact jumpTo_inv h t
  · exact h

/-- A drawn slip keeps the bound of R417. -/
theorem drawSlip_bound (s : State) (f : PsdFlag) (n : Nat) (h : s.cfg.errorExitSlip = some n) : drawSlip s f ≤ n := by
  simp only [drawSlip, h]
  exact Nat.le_of_lt_succ (Nat.mod_lt _ (Nat.succ_pos n))

theorem raiseWith_inv {s : State} (h : Inv s) (f : PsdFlag) (n : Nat)
    (hn : ∀ m, s.cfg.errorExitSlip = some m → n ≤ m) : Inv (raiseWith s f n) := by
  unfold raiseWith
  split
  · exact h
  · dsimp only
    split
    · have k := setFlag_inv h f
      refine k.setCpu ⟨k.cpu.b0, k.cpu.stack12, k.cpu.recent2, k.cpu.inField, ?_, k.cpu.copyIn, k.cpu.readFirst⟩
      intro b m hb hm
      have hb' : s.cfg.errorExitSlip = some b := hb
      simp only [setFlag_cpu_slip] at hm
      unfold lowerSlip at hm
      split at hm
      · cases hm; exact hn b hb'
      · cases hm; exact le_trans (min_le_left _ _) (hn b hb')
    · exact setFlag_inv h f

theorem raiseLate_inv {s : State} (h : Inv s) (f : PsdFlag) : Inv (raiseLate s f) :=
  raiseWith_inv h f _ (drawSlip_bound s f)

theorem raiseNow_inv {s : State} (h : Inv s) (f : PsdFlag) : Inv (raiseNow s f) := raiseWith_inv h f 0 (fun _ _ => Nat.zero_le _)

theorem deliver_inv {s : State} (h : Inv s) (i : Reg) (r : FpResult) : Inv (deliver s i r) := by
  unfold deliver
  dsimp only
  split
  · exact raiseLate_inv (setX_inv h i _) _
  · exact setX_inv h i _

/-! ### Storage -/

/-- Raising a flag changes the PSD and SLIP only. -/
theorem raiseWith_frame (s : State) (f : PsdFlag) (n : Nat) :
    ∃ psd slip, raiseWith s f n = { s with cpu := { s.cpu with psd := psd, slip := slip } } := by
  unfold raiseWith
  split
  · exact ⟨s.cpu.psd, s.cpu.slip, rfl⟩
  · dsimp only
    split
    · exact ⟨_, _, rfl⟩
    · exact ⟨_, s.cpu.slip, rfl⟩

theorem chargeScmParity_frame (s : State) : ∃ psd slip late,
    chargeScmParity s = { s with cpu := { s.cpu with psd := psd, slip := slip, parityLate := late } } := by
  have k : ∃ psd slip late,
      raiseLate s .scmParity = { s with cpu := { s.cpu with psd := psd, slip := slip, parityLate := late } } := by
    obtain ⟨p, l, h⟩ := raiseWith_frame s .scmParity (drawSlip s .scmParity)
    exact ⟨p, l, s.cpu.parityLate, h⟩
  unfold chargeScmParity
  split
  · split
    · exact ⟨s.cpu.psd, s.cpu.slip, true, rfl⟩
    · exact k
  · exact k

/-- What detecting an SCM parity error can change: the error declared, the latches, the PSD and SLIP of the program
charged. -/
theorem scmDetect_frame (s : State) (a : ScmAddr) : ∃ bad latch psd slip late, scmDetect s a = { s with
    scmBad := bad, scmLatch := latch, cpu := { s.cpu with psd := psd, slip := slip, parityLate := late } } := by
  unfold scmDetect
  split
  · exact ⟨s.scmBad, s.scmLatch, s.cpu.psd, s.cpu.slip, s.cpu.parityLate, rfl⟩
  · rename_i e _
    obtain ⟨p, l, t, h⟩ := chargeScmParity_frame { s with scmBad := s.scmBad.erase e }
    rw [h]
    unfold latchScm
    split
    · exact ⟨_, s.scmLatch, p, l, t, rfl⟩
    · exact ⟨_, _, p, l, t, rfl⟩

/-- What detecting an LCM parity error can change. -/
theorem lcmDetect_frame (s : State) (a : LcmAddr) : ∃ bad latch psd slip, lcmDetect s a = { s with
    lcmBad := bad, lcmLatch := latch, cpu := { s.cpu with psd := psd, slip := slip } } := by
  unfold lcmDetect
  split
  · exact ⟨s.lcmBad, s.lcmLatch, s.cpu.psd, s.cpu.slip, rfl⟩
  · rename_i e _
    obtain ⟨p, l, h⟩ := raiseWith_frame { s with lcmBad := s.lcmBad.erase e } .lcmParity
      (drawSlip { s with lcmBad := s.lcmBad.erase e } .lcmParity)
    rw [raiseLate, h]
    unfold latchLcm
    split
    · exact ⟨_, s.lcmLatch, p, l, rfl⟩
    · exact ⟨_, _, p, l, rfl⟩

theorem chargeScmParity_inv {s : State} (h : Inv s) : Inv (chargeScmParity s) := by
  unfold chargeScmParity
  split
  · split
    · exact h.cpuSame rfl rfl rfl rfl rfl rfl rfl (.inl rfl)
    · exact raiseLate_inv h _
  · exact raiseLate_inv h _

theorem scmDetect_inv {s : State} (h : Inv s) (a : ScmAddr) : Inv (scmDetect s a) := by
  unfold scmDetect
  split
  · exact h
  · rename_i e _
    have k := chargeScmParity_inv (s := { s with scmBad := s.scmBad.erase e }) ⟨h.scm, h.lcm, h.ppu, h.cpu, h.mux⟩
    unfold latchScm
    split
    · exact k
    · exact ⟨k.scm, k.lcm, k.ppu, k.cpu, k.mux⟩

theorem lcmDetect_inv {s : State} (h : Inv s) (a : LcmAddr) : Inv (lcmDetect s a) := by
  unfold lcmDetect
  split
  · exact h
  · rename_i e _
    have k := raiseLate_inv (s := { s with lcmBad := s.lcmBad.erase e }) ⟨h.scm, h.lcm, h.ppu, h.cpu, h.mux⟩ .lcmParity
    unfold latchLcm
    split
    · exact k
    · exact ⟨k.scm, k.lcm, k.ppu, k.cpu, k.mux⟩

theorem scmPut_inv {s : State} (h : Inv s) (a : ScmAddr) (v : Word60) : Inv (scmPut s a v) := by
  unfold scmPut
  split
  · rename_i he
    exact ⟨memOk_write v h.scm (of_decide_eq_true he), h.lcm, h.ppu, h.cpu, h.mux⟩
  · exact h

theorem lcmPut_inv {s : State} (h : Inv s) (a : LcmAddr) (v : Word60) : Inv (lcmPut s a v) := by
  unfold lcmPut
  split
  · rename_i he
    exact ⟨h.scm, memOk_write v h.lcm (of_decide_eq_true he), h.ppu, h.cpu, h.mux⟩
  · exact h

theorem mem_settle {a b : ScmAddr} {old : Word60} {l : List ScmRef} (h : ScmRef.store b old ∈ l.map (settleRef a)) :
    ScmRef.store b old ∈ l := by
  obtain ⟨r, hr, he⟩ := List.mem_map.1 h
  unfold settleRef at he
  split at he
  · split at he
    · cases he
    · cases he; exact hr
  · cases he

theorem scmForget_inv {s : State} (h : Inv s) (a : ScmAddr) : Inv (scmForget s a) :=
  h.setCpu ⟨h.cpu.b0, h.cpu.stack12, by simpa using h.cpu.recent2, fun b old hb => h.cpu.inField b old (mem_settle hb),
    h.cpu.slipBound, h.cpu.copyIn, h.cpu.readFirst⟩

theorem scmStore_inv {s : State} (h : Inv s) (a : ScmAddr) (v : Word60) : Inv (scmStore s a v) :=
  scmDetect_inv (scmForget_inv (scmPut_inv h a v) a) a

theorem noteRef_inv {s : State} (h : Inv s) (r : ScmRef)
    (hr : ∀ a old, r = .store a old → ∃ q : Word18, q < s.cpu.fls ∧ a = (s.cpu.ras + q).setWidth 16) : Inv (noteRef s r) := by
  refine h.setCpu ⟨h.cpu.b0, h.cpu.stack12, List.length_take_le _ _, ?_, h.cpu.slipBound, h.cpu.copyIn, h.cpu.readFirst⟩
  intro a old ha
  rcases List.mem_cons.1 (List.mem_of_mem_take ha) with he | ha
  · exact hr a old he.symm
  · exact h.cpu.inField a old ha

theorem undoStore_inv {s : State} (h : Inv s) (r : ScmRef) : Inv (undoStore s r) := by
  cases r with
  | done => exact h
  | store a old => exact scmPut_inv h a old

theorem abortStores_inv {s : State} (h : Inv s) : Inv (abortStores s) := by
  have u : ∀ {t : State}, Inv t → ∀ (b : Bool) (r : ScmRef), Inv (if b = true then undoStore t r else t) := by
    intro t k b r; split
    · exact undoStore_inv k r
    · exact k
  unfold abortStores
  dsimp only
  split
  · exact h
  · exact u h _ _
  · exact u (u h _ _) _ _

theorem beforeRange_inv {s : State} (h : Inv s) : Inv (beforeRange s) := by
  unfold beforeRange
  split
  · exact h
  · have k := abortStores_inv h
    exact k.setCpu ⟨k.cpu.b0, k.cpu.stack12, by simp, by simp, k.cpu.slipBound, k.cpu.copyIn, k.cpu.readFirst⟩

theorem rangeLate_inv {s : State} (h : Inv s) : Inv (rangeLate s) := raiseLate_inv (beforeRange_inv h) _

theorem rangeNow_inv {s : State} (h : Inv s) : Inv (rangeNow s) := setFlag_inv (beforeRange_inv h) _

/-! ### Where the storage field lies is not changed by references -/

theorem scmDetect_field (s : State) (a : ScmAddr) : (scmDetect s a).cpu.ras = s.cpu.ras ∧ (scmDetect s a).cpu.fls = s.cpu.fls := by
  obtain ⟨_, _, _, _, _, h⟩ := scmDetect_frame s a
  rw [h]
  exact ⟨rfl, rfl⟩

theorem scmPut_cpu (s : State) (a : ScmAddr) (v : Word60) : (scmPut s a v).cpu = s.cpu := by
  unfold scmPut; split <;> rfl

/-- Setting an A register (R283). -/
theorem setAddr_inv {s : State} (h : Inv s) (i : Reg) (r : Word18) : Inv (setAddr s i r) := by
  have k := setAReg_inv h i r
  unfold setAddr
  dsimp only
  split
  · exact k
  · split
    · unfold loadX
      dsimp only
      split
      · exact noteRef_inv (scmDetect_inv (setX_inv k _ _) _) _ (by simp)
      · split
        · exact rangeLate_inv (setX_inv k _ _)
        · exact rangeLate_inv (scmDetect_inv (setX_inv k _ _) _)
    · unfold storeX
      dsimp only
      split
      · rename_i hr
        split
        · exact k
        · refine noteRef_inv (scmDetect_inv (scmPut_inv k _ _) _) _ ?_
          intro a old he
          cases he
          rw [(scmDetect_field _ _).1, (scmDetect_field _ _).2, scmPut_cpu]
          exact ⟨r, hr, rfl⟩
      · exact rangeLate_inv k

/-! ### The exchange jump (R412) -/

theorem pkgDecode_b0 (l : PkgLayout) (pkg : List Word60) (c : Cpu) : (pkgDecode l pkg c).b[0] = 0 := rfl

theorem placePkg_inv (a : ScmAddr) (vs : List Word60) : ∀ {s : State} (n : Nat), Inv s → Inv (placePkg s a n vs) := by
  induction vs with
  | nil => intro s n h; exact h
  | cons v vs ih => intro s n h; exact ih (n + 1) (scmPut_inv h _ _)

theorem exchangeJump_inv {s : State} (h : Inv s) (a : ScmAddr) (p : Word18) (who : Initiator) :
    Inv (exchangeJump s a p who) :=
  h.setCpu ⟨h.cpu.b0, h.cpu.stack12, h.cpu.recent2, h.cpu.inField, h.cpu.slipBound, by simp, by
    intro x hx w hw
    cases hx
    simp at hw⟩

theorem errorExit_inv {s : State} (h : Inv s) (p : Word18) : Inv (errorExit s p) := exchangeJump_inv h _ p _

/-- Advancing an exchange sequence: `CpuOk` asks of the phase only that no word is written before it is read. -/
theorem Inv.exchangePhase {s : State} (h : Inv s) {x : Exchange}
    (hx : ∀ w : Fin 16, x.put[w] = true → x.got[w].isSome = true) :
    Inv { s with cpu := { s.cpu with phase := .exchanging x } } :=
  h.setCpu ⟨h.cpu.b0, h.cpu.stack12, h.cpu.recent2, h.cpu.inField, h.cpu.slipBound, by simp, by
    intro y hy; cases hy; exact hx⟩

theorem exchangeRead_inv {s : State} (h : Inv s) {x : Exchange} (hx : s.cpu.phase = .exchanging x) (w : Fin 16) :
    Inv (exchangeRead s x w) := by
  refine (scmDetect_inv h _).exchangePhase fun v hv => ?_
  have := h.cpu.readFirst x hx v hv
  simp only [Fin.getElem_fin, Vector.getElem_set] at this ⊢
  split
  · rfl
  · exact this

theorem exchangeWrite_inv {s : State} (h : Inv s) {x : Exchange} (hx : s.cpu.phase = .exchanging x) (w : Fin 16)
    (hw : x.got[w].isSome = true) : Inv (exchangeWrite s x w) := by
  refine (scmDetect_inv (scmPut_inv h _ _) _).exchangePhase fun v hv => ?_
  simp only [Fin.getElem_fin, Vector.getElem_set] at hv
  split at hv
  · rename_i e
    rwa [← Fin.ext e]
  · exact h.cpu.readFirst x hx v hv

theorem exchangeLoad_inv {s : State} (h : Inv s) (x : Exchange) : Inv (exchangeLoad s x) := by
  have k := h.setCpu (cpuOk_beginInterval s.cfg (pkgDecode s.cfg.layout (x.got.toList.map (·.getD 0)) s.cpu)
    (pkgDecode_b0 _ _ _))
  unfold exchangeLoad
  dsimp only
  split
  · exact raiseLate_inv k _
  · exact k

theorem exchangeStep_inv {s : State} (h : Inv s) {x : Exchange} (hx : s.cpu.phase = .exchanging x) :
    Inv (exchangeStep s x) := by
  unfold exchangeStep
  split
  · exact exchangeLoad_inv h x
  · split
    · exact exchangeRead_inv h hx _
    · rename_i w _ hw
      exact exchangeWrite_inv h hx w (by rwa [Bool.not_eq_true, Option.isNone_eq_false_iff] at hw)

/-! ### Monitor, LCM, channels and Return Jump -/

theorem copyToScm_inv {s : State} (h : Inv s) (l : BitVec 19) (r : Word18) : Inv (copyToScm s l r) :=
  scmStore_inv (lcmDetect_inv h _) _ _

theorem copyToLcm_inv {s : State} (h : Inv s) (l : BitVec 19) (r : Word18) : Inv (copyToLcm s l r) :=
  lcmPut_inv (scmDetect_inv h _) _ _

/-- The fields and the phase are as before the word. -/
theorem copyToScm_field (s : State) (l : BitVec 19) (r : Word18) :
    (copyToScm s l r).cpu.fls = s.cpu.fls ∧ (copyToScm s l r).cpu.fll = s.cpu.fll := by
  simp only [copyToScm, scmStore]
  obtain ⟨_, _, _, _, _, h⟩ := scmDetect_frame (scmForget (scmPut (lcmDetect s (lcmAbs s l)) (scmAbs s r)
    (lcmValue s (lcmAbs s l))) (scmAbs s r)) (scmAbs s r)
  obtain ⟨_, _, _, _, k⟩ := lcmDetect_frame s (lcmAbs s l)
  rw [h]
  simp only [scmForget_cpu_fls, scmForget_cpu_fll, scmPut_cpu]
  rw [k]
  exact ⟨rfl, rfl⟩

theorem copyToLcm_field (s : State) (l : BitVec 19) (r : Word18) :
    (copyToLcm s l r).cpu.fls = s.cpu.fls ∧ (copyToLcm s l r).cpu.fll = s.cpu.fll := by
  have k : ∀ (t : State) (a : LcmAddr) v, (lcmPut t a v).cpu = t.cpu := by intro t a v; unfold lcmPut; split <;> rfl
  simp only [copyToLcm, k]
  obtain ⟨_, _, _, _, _, h⟩ := scmDetect_frame s (scmAbs s r)
  rw [h]
  exact ⟨rfl, rfl⟩

theorem copyStep_inv {s : State} (h : Inv s) {c : CopyRun} (hc : s.cpu.phase = .copying c) (hl : c.left ≠ 0) :
    Inv (copyStep s c) := by
  have ho := h.cpu.copyIn c hc
  have k : ∀ {t : State}, Inv t → t.cpu.fls = s.cpu.fls → t.cpu.fll = s.cpu.fll → Inv { t with cpu := { t.cpu with
      phase := .copying { c with lcm := c.lcm + 1, scm := c.scm + 1, left := c.left - 1 } } } := by
    intro t ht e1 e2
    refine ht.setCpu ⟨ht.cpu.b0, ht.cpu.stack12, ht.cpu.recent2, ht.cpu.inField, ht.cpu.slipBound, ?_, by simp⟩
    intro r hr
    cases hr
    dsimp only
    rw [e1, e2]
    have f1 := s.cpu.fls.isLt
    have f2 := s.cpu.fll.isLt
    refine ⟨by omega, ?_, ?_⟩
    · rw [BitVec.toNat_add, show (1 : Word18).toNat = 1 from rfl, Nat.mod_eq_of_lt (by omega)]; omega
    · rw [BitVec.toNat_add, show (1 : BitVec 19).toNat = 1 from rfl, Nat.mod_eq_of_lt (by omega)]; omega
  unfold copyStep
  dsimp only
  split
  · exact k (copyToScm_inv h _ _) (copyToScm_field _ _ _).1 (copyToScm_field _ _ _).2
  · exact k (copyToLcm_inv h _ _) (copyToLcm_field _ _ _).1 (copyToLcm_field _ _ _).2

theorem blockCopy_inv {s : State} (h : Inv s) (j : Reg) (K : Word18) (toScm : Bool) : Inv (blockCopy s j K toScm) := by
  have r : ∀ {t : State}, Inv t → ∀ (b : Bool) f, Inv (if b = true then raiseNow t f else t) := by
    intro t k b f; split
    · exact raiseNow_inv k f
    · exact k
  unfold blockCopy
  dsimp only
  split
  · exact h
  · split
    · exact r (r h _ _) _ _
    · rename_i hr
      simp only [lcmBlockOut, scmBlockOut, Bool.or_eq_true, decide_eq_true_eq, not_or, not_lt] at hr
      refine h.setCpu ⟨h.cpu.b0, h.cpu.stack12, h.cpu.recent2, h.cpu.inField, h.cpu.slipBound, ?_, by simp⟩
      intro c hc
      cases hc
      have := Nat.mod_le (blockCount s j K) 1024
      exact ⟨Nat.mod_lt _ (by decide), by dsimp only; omega, by dsimp only; omega⟩

theorem readLcm_inv {s : State} (h : Inv s) (j : Reg) (r : BitVec 19) : Inv (readLcm s j r) := by
  unfold readLcm
  dsimp only
  refine lcmDetect_inv (setX_inv ?_ _ _) _
  split
  · exact h
  · exact raiseLate_inv h _

theorem writeLcm_inv {s : State} (h : Inv s) (j : Reg) (r : BitVec 19) : Inv (writeLcm s j r) := by
  unfold writeLcm; split
  · exact lcmPut_inv h _ _
  · exact raiseLate_inv h _

theorem Inv.setMux {s : State} (h : Inv s) {m : Vector MuxChan 16} (hm : ∀ c : Unit16, ChanOk m[c]) :
    Inv { s with mux := m } := ⟨h.scm, h.lcm, h.ppu, h.cpu, hm⟩

theorem releaseLockouts_inv {s : State} (h : Inv s) : Inv (releaseLockouts s) := by
  refine h.setMux fun c => ?_
  have k := h.mux c
  simp only [Fin.getElem_fin, Vector.getElem_map] at k ⊢
  exact ⟨k.asm5, k.dis5, k.ranks3⟩

theorem exchangeExit_inv {s : State} (h : Inv s) (a : ScmAddr) : Inv (exchangeExit s a) :=
  exchangeJump_inv (releaseLockouts_inv h) a _ _

theorem vec_set_all {α : Type} {n : Nat} (P : α → Prop) (v : Vector α n) (i : Fin n) (x : α) (h : ∀ c : Fin n, P v[c])
    (hx : P x) : ∀ c : Fin n, P (v.set i x)[c] := by
  intro c
  simp only [Fin.getElem_fin, Vector.getElem_set]
  split
  · exact hx
  · exact h c

theorem setIn_inv {s : State} (h : Inv s) (c : Unit16) (m : MuxIn) (hm : m.asmCnt.toNat ≤ 4) : Inv (setIn s c m) :=
  h.setMux (vec_set_all _ _ _ _ h.mux ⟨hm, (h.mux c).dis5, (h.mux c).ranks3⟩)

theorem setOut_inv {s : State} (h : Inv s) (c : Unit16) (m : MuxOut) (hd : m.disCnt.toNat ≤ 5) (hr : m.ranks.length ≤ 3) :
    Inv (setOut s c m) :=
  h.setMux (vec_set_all _ _ _ _ h.mux ⟨(h.mux c).asm5, hd, hr⟩)

theorem resetInput_inv {s : State} (h : Inv s) (c : Unit16) : Inv (resetInput s c) := setIn_inv h c _ (by simp)

theorem resetOutput_inv {s : State} (h : Inv s) (c : Unit16) : Inv (resetOutput s c) := setOut_inv h c _ (by simp) (by simp)

theorem didReset_inv {s : State} (h : Inv s) (k : ResetKind) : Inv (didReset s k) := h.cpuSame rfl rfl rfl rfl rfl rfl rfl (.inl rfl)

theorem returnStore_inv {s : State} (h : Inv s) (K : Word18) : Inv (returnStore s K) := by
  unfold returnStore; split
  · exact rangeNow_inv h
  · split
    · exact h
    · exact scmStore_inv h _ _

theorem returnJump_inv {s : State} (h : Inv s) (K : Word18) : Inv (returnJump s K) := by
  have k := setFlagIf_inv (setFlagIf_inv (returnStore_inv h K) (K == 0) .programRange) (K == s.cpu.bpa) .breakpoint
  have u := k.setCpu (c := { (setFlagIf (setFlagIf (returnStore s K) (K == 0) .programRange) (K == s.cpu.bpa) .breakpoint).cpu
    with iws := [] }) ⟨k.cpu.b0, by simp, k.cpu.recent2, k.cpu.inField, k.cpu.slipBound, k.cpu.copyIn, k.cpu.readFirst⟩
  unfold returnJump
  dsimp only
  split
  · exact errorExit_inv u _
  · exact jumpTo_inv u _

/-! ### PPUs -/

theorem Inv.setPpus {s : State} (h : Inv s) {m : Vector Ppu 16} (hm : ∀ u : Unit16, MemOk 4096 m[u].mem) :
    Inv { s with ppus := m } := ⟨h.scm, h.lcm, hm, h.cpu, h.mux⟩

theorem setPpu_inv {s : State} (h : Inv s) (u : Ppu) (hu : MemOk 4096 u.mem) : Inv (setPpu s u) :=
  h.setPpus (vec_set_all (fun q : Ppu => MemOk 4096 q.mem) _ _ _ h.ppu hu)

theorem updPpu_inv {s : State} (h : Inv s) (u : Unit16) (f : Ppu → Ppu) (hf : (f s.ppus[u]).mem = s.ppus[u].mem) :
    Inv (updPpu s u f) := by
  refine h.setPpus (vec_set_all (fun q : Ppu => MemOk 4096 q.mem) _ _ _ h.ppu ?_)
  rw [hf]; exact h.ppu u

theorem memOk_ppuWrite {u : Ppu} (h : MemOk 4096 u.mem) (a v : Word12) : MemOk 4096 (u.write a v).mem :=
  memOk_write v h a.isLt

theorem memOk_getPpu {s : State} (h : Inv s) : MemOk 4096 (getPpu s).mem := h.ppu s.cur

/-- What a step of a PPU can answer keeps the invariant. -/
theorem ppuThen_inv {s t : State} (h : Inv s) {u : Ppu} (hu : MemOk 4096 u.mem) {n : Nat} (e : ppuThen s u n = .next t) :
    Inv t := by
  unfold ppuThen at e
  split at e
  · cases e; exact setPpu_inv h _ hu
  · cases e

theorem ppuJump_inv {s t : State} (h : Inv s) {u : Ppu} (hu : MemOk 4096 u.mem) {a : Word12} (e : ppuJump s u a = .next t) :
    Inv t := by
  cases e; exact setPpu_inv h _ hu

theorem ppuJumpIf_inv {s t : State} (h : Inv s) {u : Ppu} (hu : MemOk 4096 u.mem) {c : Bool} {a : Word12} {n : Nat}
    (e : ppuJumpIf s u c a n = .next t) : Inv t := by
  unfold ppuJumpIf at e
  split at e
  · exact ppuJump_inv h hu e
  · exact ppuThen_inv h hu e

theorem ppuReturnJump_inv {s t : State} (h : Inv s) {a : Word12} (e : ppuReturnJump s a = .next t) : Inv t := by
  unfold ppuReturnJump at e
  split at e
  · exact ppuJump_inv h (memOk_ppuWrite (memOk_getPpu h) _ _) e
  · cases e

theorem blockEntry_inv {s t : State} (h : Inv s) {m : Word12} {iop : Iop} (e : blockEntry s m iop = .next t) : Inv t := by
  unfold blockEntry at e
  dsimp only at e
  split at e
  · cases e
  · split at e
    · refine ppuThen_inv h ?_ e; exact memOk_getPpu h
    · cases e; exact setPpu_inv h _ (memOk_getPpu h)

theorem blockEnd_inv {s t : State} (h : Inv s) {u : Ppu} (hu : MemOk 4096 u.mem) {boot : Bool}
    (e : blockEnd s u boot = .next t) : Inv t := by
  unfold blockEnd at e
  split at e
  · refine ppuJump_inv h ?_ e; exact hu
  · refine ppuThen_inv h ?_ e; exact hu

theorem garbleEnd_inv {s : State} (h : Inv s) (i : Nat) (u : Unit16) (n : Cable) : Inv (garbleEnd s i u n) :=
  updPpu_inv h u _ rfl

theorem garble_inv {s : State} (h : Inv s) (us : List Unit16) : Inv (garble s us) := by
  have : ∀ t : State, Inv t → Inv (us.foldl (fun t u => garbleEnd t (5 * (u.val + 1)) u 0) t) := by
    induction us with
    | nil => exact fun _ k => k
    | cons u us ih => exact fun t k => ih _ (garbleEnd_inv k _ u 0)
  exact this _ (garbleEnd_inv h 0 0 7)

theorem afterOutput_inv {s : State} (old : State) (h : Inv s) : Inv (afterOutput old s) := by
  unfold afterOutput
  dsimp only
  split
  · exact garble_inv h _
  · exact h

end Sys2Proof.Machine
end

