-- ==== Sys2Proof/Laws/KeepAgents.lean ====
section
/-!
SUPPORT. The agents that execute no instruction, instruction fetch and the end of a word keep the invariant `Inv`.
-/

namespace Sys2Proof.Machine

open Sys2Proof

theorem inc_le5 (d : BitVec 3) (h : d.toNat < 5) : (d + 1).toNat ≤ 5 := by
  rw [BitVec.toNat_add]; simp; omega

/-! ### Cables -/

theorem hitWord_inv {s : State} (h : Inv s) (r : RxEnd) : Inv (hitWord s r) := by
  cases r with
  | ppu u n =>
    dsimp only [hitWord]; split
    · exact h
    · exact updPpu_inv h u _ rfl
  | mux c => exact setIn_inv h c _ (h.mux c).asm5

theorem hitRecord_inv {s : State} (h : Inv s) (r : RxEnd) : Inv (hitRecord s r) := by
  cases r with
  | ppu u n =>
    dsimp only [hitRecord]; split
    · exact h
    · exact updPpu_inv h u _ rfl
  | mux c => exact setIn_inv h c _ (h.mux c).asm5

theorem hitResume_inv {s : State} (h : Inv s) (t : TxEnd) : Inv (hitResume s t) := by
  cases t with
  | ppu u n => dsimp only [hitResume]; exact updPpu_inv h u _ rfl
  | mux c => exact setOut_inv h c _ (h.mux c).dis5 (h.mux c).ranks3

theorem deliverWord_inv {s : State} (h : Inv s) (t : TxEnd) : Inv (deliverWord s t) := by
  have hit : ∀ {q : State}, Inv q → Inv (match farRx s t with | some r => hitWord q r | none => q) := by
    intro q k; split
    · exact hitWord_inv k _
    · exact k
  cases t with
  | ppu u n =>
    simp only [deliverWord]; split
    · exact h
    · exact hit (updPpu_inv h u _ rfl)
  | mux c =>
    simp only [deliverWord]; split
    · exact h
    · exact hit (setOut_inv h c _ (h.mux c).dis5 (h.mux c).ranks3)

theorem deliverRecord_inv {s : State} (h : Inv s) (t : TxEnd) : Inv (deliverRecord s t) := by
  have hit : ∀ {q : State}, Inv q → Inv (match farRx s t with | some r => hitRecord q r | none => q) := by
    intro q k; split
    · exact hitRecord_inv k _
    · exact k
  cases t with
  | ppu u n =>
    simp only [deliverRecord]; split
    · exact h
    · exact hit (updPpu_inv h u _ rfl)
  | mux c =>
    simp only [deliverRecord]; split
    · exact h
    · exact hit (setOut_inv h c _ (h.mux c).dis5 (h.mux c).ranks3)

theorem deliverResume_inv {s : State} (h : Inv s) (r : RxEnd) : Inv (deliverResume s r) := by
  have hit : ∀ {q : State}, Inv q → Inv (match farTx s r with | some t => hitResume q t | none => q) := by
    intro q k; split
    · exact hitResume_inv k _
    · exact k
  cases r with
  | ppu u n =>
    simp only [deliverResume]; split
    · exact h
    · exact hit (updPpu_inv h u _ rfl)
  | mux c =>
    simp only [deliverResume]; split
    · exact h
    · exact hit (setIn_inv h c _ (h.mux c).asm5)

theorem envLines_inv {s : State} (h : Inv s) (r : RxEnd) (v : Word12) : Inv (envLines s r v) := by
  unfold envLines; split
  · cases r with
    | ppu u n => exact updPpu_inv h u _ rfl
    | mux c => exact setIn_inv h c _ (h.mux c).asm5
  · exact h

theorem envWord_inv {s : State} (h : Inv s) (r : RxEnd) : Inv (envWord s r) := by
  unfold envWord; split
  · exact hitWord_inv h r
  · exact h

theorem envRecord_inv {s : State} (h : Inv s) (r : RxEnd) : Inv (envRecord s r) := by
  unfold envRecord; split
  · exact hitRecord_inv h r
  · exact h

theorem envResume_inv {s : State} (h : Inv s) (t : TxEnd) : Inv (envResume s t) := by
  unfold envResume; split
  · exact hitResume_inv h t
  · exact h

/-! ### The multiplexer -/

/-- The Resume levels change output flags of PPUs only. -/
theorem levelPpus_mem (cfg : Config) (mux : Vector MuxChan 16) (ppus : Vector Ppu 16) (u : Unit16) :
    (levelPpus cfg mux ppus)[u].mem = ppus[u].mem := by
  unfold levelPpus
  generalize List.finRange 16 = l
  induction l generalizing ppus with
  | nil => rfl
  | cons c l ih =>
    rw [List.foldl_cons, ih]
    split
    · split
      · simp only [Fin.getElem_fin, Vector.getElem_set]
        split
        · rename_i e
          simp [Ppu.wordTaken, e]
        · rfl
      · rfl
    · rfl

theorem resumeLevels_inv {s : State} (h : Inv s) : Inv (resumeLevels s) :=
  h.setPpus fun u => by rw [levelPpus_mem]; exact h.ppu u

theorem sample_asm5 {m : MuxIn} (hs : Bool) (w : Word12) : (m.sample hs w).asmCnt.toNat ≤ 4 := by
  simp only [MuxIn.sample, decide_eq_true_eq]
  split
  · simp
  · rw [BitVec.toNat_add]; simp; omega

theorem event_asm (m : MuxIn) : m.event.asmCnt = m.asmCnt := by unfold MuxIn.event; split <;> rfl

theorem event_dis (m : MuxOut) : m.event.disCnt = m.disCnt := by unfold MuxOut.event; split <;> rfl

theorem event_ranks (m : MuxOut) : m.event.ranks = m.ranks := by unfold MuxOut.event; split <;> rfl

theorem record_asm5 {m : MuxIn} : m.record.asmCnt.toNat ≤ 4 := by
  unfold MuxIn.record
  dsimp only
  split
  · rename_i h; rw [event_asm]; simp [h]
  · simp

theorem muxSample_inv {s : State} (h : Inv s) (c : Unit16) : Inv (muxSample s c) := by
  unfold muxSample; dsimp only; split
  · exact setIn_inv h c _ (sample_asm5 _ _)
  · exact h

theorem muxRecord_inv {s : State} (h : Inv s) (c : Unit16) : Inv (muxRecord s c) := by
  unfold muxRecord; dsimp only; split
  · exact setIn_inv h c _ record_asm5
  · exact h

theorem stored_asm5 (m : MuxIn) (b : Buffer) : (m.stored b).asmCnt.toNat ≤ 4 := by
  unfold MuxIn.stored; dsimp only; split
  · rw [event_asm]; simp
  · simp

/-- The order of requests is no part of the invariant. -/
theorem scmReceive_inv {s : State} (h : Inv s) (b : Bool) (n : Option Nat) : Inv (scmReceive s b n) :=
  ⟨h.scm, h.lcm, h.ppu, h.cpu, h.mux⟩

theorem cpuReceive_inv {s : State} (h : Inv s) : Inv (cpuReceive s) := ⟨h.scm, h.lcm, h.ppu, h.cpu, h.mux⟩

theorem cpuServed_inv {s : State} (h : Inv s) : Inv (cpuServed s) := ⟨h.scm, h.lcm, h.ppu, h.cpu, h.mux⟩

theorem mcuAsk_inv {s : State} (h : Inv s) (a : ScmAddr) (v : Word60) : Inv (mcuAsk s a v) :=
  ⟨h.scm, h.lcm, h.ppu, h.cpu, h.mux⟩

theorem scmServed_inv {s : State} (h : Inv s) (r : ScmRequest) : Inv (scmServed s r) :=
  ⟨h.scm, h.lcm, h.ppu, h.cpu, h.mux⟩

theorem mcuStore_inv {s : State} (h : Inv s) : Inv (mcuStore s) := by
  unfold mcuStore; split
  · exact scmStore_inv (scmServed_inv h _) _ _
  · exact h

theorem muxStore_inv {s : State} (h : Inv s) (c : Unit16) : Inv (muxStore s c) := by
  unfold muxStore; dsimp only; split
  · exact scmStore_inv (scmServed_inv (setIn_inv h c _ (stored_asm5 _ _)) _) _ _
  · exact h

theorem muxFetch_inv {s : State} (h : Inv s) (c : Unit16) : Inv (muxFetch s c) := by
  unfold muxFetch; dsimp only; split
  · refine scmDetect_inv (scmServed_inv (setOut_inv h c _ ?_ ?_) _) _
    · split <;> simp
    · split <;> exact (h.mux c).ranks3
  · exact h

theorem advance_dis (m : MuxOut) (b : Buffer) : (m.advance b).disCnt = m.disCnt ∧ (m.advance b).ranks = m.ranks := by
  unfold MuxOut.advance; dsimp only; split
  · exact ⟨event_dis _, event_ranks _⟩
  · exact ⟨rfl, rfl⟩

theorem muxAhead_inv {s : State} (h : Inv s) (c : Unit16) : Inv (muxAhead s c) := by
  unfold muxAhead; dsimp only; split
  · rename_i hc
    simp only [Bool.and_eq_true, decide_eq_true_eq] at hc
    have hd : (s.mux[c].out.disCnt + 1).toNat ≤ 5 := inc_le5 _ hc.2
    have hr : (s.mux[c].out.ranks ++ [disassemble s.mux[c].out.dis s.mux[c].out.disCnt.toNat]).length ≤ 3 := by
      rw [List.length_append]; simp only [List.length_cons, List.length_nil]; omega
    refine setOut_inv h c _ ?_ ?_
    · split <;> (try dsimp only) <;> split <;> first | (rw [(advance_dis _ _).1]; exact hd) | exact hd
    · split <;> (try dsimp only) <;> split <;> first | (rw [(advance_dis _ _).2]; exact hr) | exact hr
  · exact h

theorem muxSend_inv {s : State} (h : Inv s) (c : Unit16) : Inv (muxSend s c) := by
  unfold muxSend; dsimp only
  split
  · exact h
  · split
    · split
      · exact h
      · split
        · exact h
        · exact setOut_inv h c _ (h.mux c).dis5 (h.mux c).ranks3
    · split
      · exact setOut_inv h c _ (h.mux c).dis5 (h.mux c).ranks3
      · exact h

theorem muxResume_inv {s : State} (h : Inv s) (c : Unit16) : Inv (muxResume s c) := by
  unfold muxResume; dsimp only
  split
  · exact h
  · split
    · exact setOut_inv h c _ (h.mux c).dis5 (h.mux c).ranks3
    · split
      · exact h
      · split
        · split
          · refine setOut_inv h c _ (h.mux c).dis5 ?_
            have := (h.mux c).ranks3
            simp only [List.length_drop]; omega
          · exact h
        · split
          · exact h
          · split
            · rename_i hlt
              refine setOut_inv h c _ ?_ ?_
              · have : (s.mux[c].out.disCnt + 1).toNat ≤ 5 := inc_le5 _ (by omega)
                dsimp only; split
                · rw [(advance_dis _ _).1]; exact this
                · exact this
              · dsimp only; split
                · rw [(advance_dis _ _).2]; exact (h.mux c).ranks3
                · exact (h.mux c).ranks3
            · refine setOut_inv h c _ (by simp) ?_
              dsimp only; split
              · rw [(advance_dis _ _).2]; exact (h.mux c).ranks3
              · exact (h.mux c).ranks3

theorem clearIo_inv {s : State} (h : Inv s) : Inv (clearIo s) := by
  refine ⟨h.scm, h.lcm, h.ppu, h.cpu, fun c => ?_⟩
  simp only [clearIo, Fin.getElem_fin, Vector.getElem_mapFinIdx]
  refine ⟨?_, ?_, (h.mux c).ranks3⟩
  · simp only [MuxIn.clear, BitVec.toNat_ofNat]; omega
  · simp only [MuxOut.clear, BitVec.toNat_ofNat]; omega

/-! ### The MCU's levels -/

theorem forcedResume_inv {s : State} (h : Inv s) (u : Unit16) : Inv (forcedResume s u) := by
  have : ∀ (l : List (Fin 8)) (t : State), Inv t → Inv (l.foldl (fun t n =>
      match farTx t (.ppu u n) with
      | some (.ppu v m) => updPpu t v (fun q => { q with outw := q.outw.set m false, outr := q.outr.set m false })
      | _ => t) t) := by
    intro l
    induction l with
    | nil => intro t k; exact k
    | cons w l ih =>
      intro t k
      refine ih _ ?_
      dsimp only
      split
      · exact updPpu_inv k _ _ rfl
      · exact k
  exact this _ _ h

theorem startDump_mem (q : Ppu) : q.startDump.mem = q.mem := by unfold Ppu.startDump; split <;> rfl

/-- An instruction cut short changes one word of memory at most. -/
theorem memOk_cutShort {q : Ppu} (h : MemOk 4096 q.mem) (wrap : PWrap) (v : Word12) : MemOk 4096 (q.cutShort wrap v).mem := by
  unfold Ppu.cutShort; split
  · exact memOk_ppuWrite h _ _
  · exact h

theorem applyDeadStart_inv {s : State} (h : Inv s) (u : Unit16) (d : Bool) : Inv (applyDeadStart s u d) := by
  have k := forcedResume_inv h u
  exact k.setPpus (vec_set_all (fun q : Ppu => MemOk 4096 q.mem) _ _ _ k.ppu (memOk_cutShort (k.ppu u) _ _))

theorem applySelected_inv {s : State} (h : Inv s) (u : Unit16) : Inv (applySelected s u) := by
  have k : Inv (if mcuBit s 0 then updPpu s u (fun q => { q with parErr := 0 }) else s) := by
    split
    · exact updPpu_inv h u _ rfl
    · exact h
  unfold applySelected; dsimp only; split
  · exact applyDeadStart_inv k u _
  · split
    · exact updPpu_inv k u _ (startDump_mem _)
    · exact k

theorem applyCpuLevels_inv {s : State} (h : Inv s) : Inv (applyCpuLevels s) := by
  have k : Inv (if mcuBit s 3 then { s with scmLatch := ⟨0, 0⟩, lcmLatch := ⟨0, 0⟩ } else s) := by
    split
    · exact ⟨h.scm, h.lcm, h.ppu, h.cpu, h.mux⟩
    · exact h
  have k2 : ∀ {t : State}, Inv t → Inv (if mcuBit s 4 then clearIo t else t) := by
    intro t q; split
    · exact clearIo_inv q
    · exact q
  unfold applyCpuLevels; dsimp only; split
  · exact (cpuServed_inv (k2 k)).cpuSame rfl rfl rfl rfl rfl rfl rfl (.inr ⟨nofun, nofun⟩)
  · exact k2 k

theorem applyMcuLevels_inv {s : State} (h : Inv s) : Inv (applyMcuLevels s) := by
  have k : Inv (if mcuBit s 6 then updPpu s 0 (fun q => { q with parErr := 0 }) else s) := by
    split
    · exact updPpu_inv h 0 _ rfl
    · exact h
  unfold applyMcuLevels; dsimp only; split
  · exact applyDeadStart_inv k 0 false
  · exact k

theorem settle_inv {s : State} (h : Inv s) : Inv (settle s) := by
  unfold settle; dsimp only
  refine resumeLevels_inv (applyMcuLevels_inv (applyCpuLevels_inv ?_))
  split
  · exact applySelected_inv h _
  · exact h

theorem levelResume_inv {s : State} (h : Inv s) (c : Unit16) : Inv (levelResume s c) := by
  unfold levelResume; split
  · split
    · exact setOut_inv h c _ (h.mux c).dis5 (h.mux c).ranks3
    · exact h
  · exact h

theorem onChannel_inv {s : State} (h : Inv s) (c : Unit16) (f : State → Unit16 → State) (hf : Inv (f s c)) :
    Inv (onChannel s c f) := by
  unfold onChannel; split
  · exact hf
  · exact h

theorem clockTick_inv {s : State} (h : Inv s) : Inv (clockTick s) := ⟨h.scm, h.lcm, h.ppu, h.cpu, h.mux⟩

/-- Every agent that executes no instruction keeps the invariant. -/
theorem agentStep_inv {s : State} (h : Inv s) (e : Event) : Inv (agentStep s e) := by
  cases e with
  | cpu => exact h
  | ppu u => exact h
  | clock => exact clockTick_inv h
  | muxSample c => exact onChannel_inv h c _ (muxSample_inv h c)
  | muxRecord c => exact onChannel_inv h c _ (muxRecord_inv h c)
  | scmReceive b n => exact scmReceive_inv h b n
  | muxStore c => exact onChannel_inv h c _ (muxStore_inv h c)
  | muxFetch c => exact onChannel_inv h c _ (muxFetch_inv h c)
  | muxAhead c => exact onChannel_inv h c _ (muxAhead_inv h c)
  | muxSend c => exact onChannel_inv h c _ (muxSend_inv h c)
  | muxResume c => exact onChannel_inv h c _ (muxResume_inv h c)
  | deliverWord t => exact deliverWord_inv h t
  | deliverRecord t => exact deliverRecord_inv h t
  | deliverResume r => exact deliverResume_inv h r
  | levelResume c => exact levelResume_inv h c
  | envLines r v => exact envLines_inv h r v
  | envWord r => exact envWord_inv h r
  | envRecord r => exact envRecord_inv h r
  | envResume t => exact envResume_inv h t
  | mcuWriteScm a v => exact mcuAsk_inv h a v
  | mcuStore => exact mcuStore_inv h
  | mcuSwitch up => exact ⟨h.scm, h.lcm, h.ppu, h.cpu, h.mux⟩
  | scmParity a sec => exact ⟨h.scm, h.lcm, h.ppu, h.cpu, h.mux⟩
  | lcmParity a sec => exact ⟨h.scm, h.lcm, h.ppu, h.cpu, h.mux⟩
  | ppuParity u b => dsimp only [agentStep, ppuParity]; exact updPpu_inv h u _ rfl

/-! ### Instruction words -/

theorem iwsPush_length (q : List (Word18 × Word60)) (w : Word18) (v : Word60) : (iwsPush q w v).length ≤ 12 := by
  simp only [iwsPush, List.length_drop]; omega

theorem iwsLoad_inv {s : State} (h : Inv s) (n : Nat) (w : Word18) : Inv (iwsLoad s n w) := by
  have k := scmDetect_inv h (scmAbs s w)
  exact k.setCpu ⟨k.cpu.b0, iwsPush_length _ _ _, k.cpu.recent2, k.cpu.inField, k.cpu.slipBound, k.cpu.copyIn, k.cpu.readFirst⟩

theorem iwsAhead_inv {s : State} (h : Inv s) (n : Nat) (w : Word18) : Inv (iwsAhead s n w) := by
  unfold iwsAhead; split
  · exact iwsLoad_inv h n w
  · exact h

theorem fetchStack_inv {s : State} (h : Inv s) (w : Word18) : Inv (fetchStack s w) := by
  unfold fetchStack; dsimp only
  refine iwsAhead_inv ?_ 3 _
  split
  · exact iwsLoad_inv (iwsLoad_inv h 1 w) 2 _
  · exact iwsAhead_inv h 2 _

theorem addressTests_inv {s : State} (h : Inv s) (w : Word18) : Inv (addressTests s w) := by
  unfold addressTests testRange; dsimp only
  refine setFlagIf_inv (setFlagIf_inv ?_ _ _) _ _
  split
  · exact rangeNow_inv h
  · exact h

theorem loadWord_inv {s : State} (h : Inv s) (w : Word18) : Inv (loadWord s w) :=
  (fetchStack_inv h w).cpuSame rfl rfl rfl rfl rfl rfl rfl (.inr ⟨nofun, nofun⟩)

theorem makeCurrent_inv {s : State} (h : Inv s) (isNew : Bool) : Inv (makeCurrent s isNew) := by
  unfold makeCurrent; dsimp only; split
  · have k := setFlag_inv (loadWord_inv h s.cpu.p) .breakpoint
    refine k.setCpu ⟨k.cpu.b0, k.cpu.stack12, k.cpu.recent2, k.cpu.inField, ?_, k.cpu.copyIn, k.cpu.readFirst⟩
    intro n m _ hm; cases hm; exact Nat.zero_le n
  · split
    · exact errorExit_inv (addressTests_inv h _) _
    · exact (loadWord_inv h _).cpuSame rfl rfl rfl rfl rfl rfl rfl (.inl rfl)

theorem acceptIo_inv {s : State} (h : Inv s) (c : Unit16) (b : Bool) (n : Word18) : Inv (acceptIo s c b n) := by
  unfold acceptIo; dsimp only
  refine exchangeJump_inv ?_ _ _ _
  split
  · exact setIn_inv h c _ (h.mux c).asm5
  · exact setOut_inv h c _ (h.mux c).dis5 (h.mux c).ranks3

theorem wordEndInterrupts_inv {s : State} (h : Inv s) (n : Word18) : Inv (wordEndInterrupts s n) := by
  have k : Inv { s with rtcFlag := false } := ⟨h.scm, h.lcm, h.ppu, h.cpu, h.mux⟩
  unfold wordEndInterrupts
  generalize takenInterrupt s = e
  rcases e with _ | _ | ⟨c, b⟩
  · exact h.cpuSame rfl rfl rfl rfl rfl rfl rfl (.inr ⟨nofun, nofun⟩)
  · exact exchangeJump_inv k _ _ _
  · exact acceptIo_inv h _ _ _

theorem endTests_inv {s : State} (h : Inv s) (n : Word18) : Inv (endTests s n) := by
  unfold endTests; split
  · exact errorExit_inv (setFlag_inv h _) _
  · split
    · rcases hm : s.cpu.slip with _ | _ | m
      · exact errorExit_inv h _
      · exact errorExit_inv h _
      · have k : Inv { s with cpu := { s.cpu with slip := some m } } := by
          refine h.setCpu ⟨h.cpu.b0, h.cpu.stack12, h.cpu.recent2, h.cpu.inField, ?_, h.cpu.copyIn, h.cpu.readFirst⟩
          intro b q hb hq; cases hq
          exact le_trans (Nat.le_succ m) (h.cpu.slipBound b (m + 1) hb hm)
        exact wordEndInterrupts_inv k _
    · exact wordEndInterrupts_inv h _

theorem endWord_inv {s : State} (h : Inv s) (n : Word18) : Inv (endWord s n) := by
  have k : Inv { s with cpu := { s.cpu with seqInc := seqAfterInc s } } := h.cpuSame rfl rfl rfl rfl rfl rfl rfl (.inl rfl)
  exact endTests_inv k n

theorem issue_inv {s : State} (h : Inv s) (i : Instr) : Inv (issue s i) := by
  have k : Inv (noteIssue s i) := h.cpuSame rfl rfl rfl rfl rfl rfl rfl (.inl rfl)
  unfold issue; split
  · exact raiseNow_inv k _
  · exact k

theorem finishInstr_inv {s : State} (h : Inv s) (n : Nat) : Inv (finishInstr s n) := by
  unfold finishInstr; split
  · exact h
  · exact h
  · exact endWord_inv h _
  · split
    · exact h.cpuSame rfl rfl rfl rfl rfl rfl rfl (.inl rfl)
    · exact endWord_inv h _

/-- The CPU inside a block copy. -/
theorem copyTurn_inv {s : State} (h : Inv s) {c : CopyRun} (hc : s.cpu.phase = .copying c) : Inv (copyTurn s c) := by
  unfold copyTurn; split
  · refine finishInstr_inv (s := { s with cpu := { s.cpu with phase := .inWord } }) ?_ _
    exact h.cpuSame rfl rfl rfl rfl rfl rfl rfl (.inr ⟨nofun, nofun⟩)
  · exact copyStep_inv h hc (by assumption)

end Sys2Proof.Machine
end

