-- ==== Sys2Proof/Laws/Ops.lean ====
section
/-!
SUPPORT. For the shared operations, one lemma each that says what it does, so that proofs about instructions cite it
and do not unfold it: registers, storage references, flags and their slip, setting an A register, the exchange jump,
advancing a PPU, the MCU's levels when none is up.
-/

namespace Sys2Proof.Machine

open Sys2Proof

/-! ### Registers -/

/-- Setting an X register changes nothing else. -/
theorem onlyX_setX (s : State) (i : Reg) (v : Word60) : OnlyX s (setX s i v) i :=
  ⟨rfl, fun _ h => getX_setX_other _ _ _ _ h, fun _ => rfl, fun _ => rfl, fun _ _ => rfl⟩

@[simp] theorem getA_setAReg_same (s : State) (i : Reg) (v : Word18) : getA (setAReg s i v) i = v := by simp [getA, setAReg]

theorem getA_setAReg_other (s : State) (i q : Reg) (v : Word18) (h : q ≠ i) : getA (setAReg s i v) q = getA s q := by
  simp only [getA, setAReg, Fin.getElem_fin, Vector.getElem_set]
  exact if_neg fun e => h (Fin.ext e.symm)

/-- The low 18 bits of an X register, as the statements write them. -/
theorem getX18_eq (s : State) (j : Reg) : getX18 s j = (getX s j).extractLsb' 0 18 := by
  unfold getX18
  ext n h
  simp only [BitVec.getElem_setWidth, BitVec.getElem_extractLsb', Nat.zero_add]

/-- Setting a B register: nothing for B0, else that register and no other. -/
theorem setB_spec (s : State) (i : Reg) (v : Word18) :
    OnlyB s (setB s i v) i ∧ getB (setB s i v) i = if i = 0 then 0 else v := by
  by_cases hi : i = 0
  · subst hi
    simp [setB, OnlyB, MemSame, getB]
  · refine ⟨⟨by simp [setB, hi], fun q h => ?_, by simp [getB], fun h => absurd h hi, by simp [setB, hi, MemSame]⟩,
      by simp [getB, setB, hi]⟩
    simp only [getB, setB, hi, if_false]
    split
    · rfl
    · simp only [Fin.getElem_fin, Vector.getElem_set]
      exact if_neg fun e => h (Fin.ext e.symm)

/-! ### References where no parity error waits -/

theorem scmDetect_none {s : State} (a : ScmAddr) (h : s.scmBad = []) : scmDetect s a = s := by simp [scmDetect, h]

theorem lcmDetect_none {s : State} (a : LcmAddr) (h : s.lcmBad = []) : lcmDetect s a = s := by simp [lcmDetect, h]

theorem scmValue_none {s : State} {who : Nat} {a : ScmAddr} (h : s.scmBad = []) (e : scmExists s a = true) :
    scmValue s who a = memRead s.scm a.toNat := by simp [scmValue, e, scmIsBad, h]

theorem lcmValue_none {s : State} {a : LcmAddr} (h : s.lcmBad = []) (e : lcmExists s a = true) :
    lcmValue s a = memRead s.lcm a.toNat := by simp [lcmValue, e, lcmIsBad, h]

/-- A store to SCM: one word where it exists, nothing else. -/
theorem scmPut_spec (s : State) (a : ScmAddr) (v : Word60) :
    scmPut s a v = { s with scm := (scmPut s a v).scm }
      ∧ (∀ n, n ≠ a.toNat → memRead (scmPut s a v).scm n = memRead s.scm n)
      ∧ (memRead (scmPut s a v).scm a.toNat = if scmExists s a then v else memRead s.scm a.toNat) := by
  unfold scmPut
  split
  · exact ⟨rfl, fun n h => memRead_write_other _ _ _ _ h, memRead_write_same _ _ _⟩
  · exact ⟨rfl, fun _ _ => rfl, rfl⟩

/-- A store to LCM: one word where it exists, nothing else. -/
theorem lcmPut_spec (s : State) (a : LcmAddr) (v : Word60) :
    lcmPut s a v = { s with lcm := (lcmPut s a v).lcm }
      ∧ (∀ n, n ≠ a.toNat → memRead (lcmPut s a v).lcm n = memRead s.lcm n)
      ∧ (memRead (lcmPut s a v).lcm a.toNat = if lcmExists s a then v else memRead s.lcm a.toNat) := by
  unfold lcmPut
  split
  · exact ⟨rfl, fun n h => memRead_write_other _ _ _ _ h, memRead_write_same _ _ _⟩
  · exact ⟨rfl, fun _ _ => rfl, rfl⟩

/-! ### Flags -/

/-- A set flag reads as set, and every other flag as before. -/
theorem flag_setFlag (s : State) (f g : PsdFlag) : flag (setFlag s f) g = (decide (g = f) || flag s g) := by
  cases f <;> cases g <;> simp [flag, setFlag, psdHas, psdBit]

/-- Setting a flag that is set changes nothing (R36). -/
theorem setFlag_of_flag {s : State} {f : PsdFlag} (h : flag s f = true) : setFlag s f = s := by
  have e : s.cpu.psd ||| BitVec.twoPow 18 (psdBit f) = s.cpu.psd := by
    ext n hn
    simp only [BitVec.getElem_or, BitVec.getElem_twoPow]
    by_cases hb : n = psdBit f
    · subst hb
      have : s.cpu.psd[psdBit f] = true := by rw [← BitVec.getLsbD_eq_getElem]; exact h
      simp [this]
    · simp [hb]
  simp only [setFlag, e]

/-- A condition flag raised: the flag, and SLIP where it was clear and is a cause; nothing else. -/
theorem raiseWith_spec (s : State) (f : PsdFlag) (n : Nat) :
    raiseWith s f n = { s with cpu := { s.cpu with psd := withFlags s [f], slip := (raiseWith s f n).cpu.slip } }
      ∧ (raiseWith s f n).cpu.slip =
          (if flag s f = false ∧ isCause s.cpu.psd f = true then lowerSlip s.cpu.slip n else s.cpu.slip) := by
  unfold raiseWith
  split
  · rename_i h
    have e : withFlags s [f] = s.cpu.psd := congrArg (·.cpu.psd) (setFlag_of_flag h)
    exact ⟨by rw [e], by simp [h]⟩
  · rename_i h
    have hf : flag s f = false := by simpa using h
    cases hc : isCause s.cpu.psd f
    · exact ⟨rfl, by simp [setFlag]⟩
    · exact ⟨rfl, by simp [hf, setFlag]⟩

/-- SCM Direct Range with no store in danger: only the flag. -/
theorem beforeRange_none {s : State} (h : s.cpu.recent = []) : beforeRange s = s := by
  unfold beforeRange
  split
  · rfl
  · simp only [abortStores, h]
    rw [← h]

theorem rangeNow_none {s : State} (h : s.cpu.recent = []) : rangeNow s = setFlag s .scmDirectRange := by
  rw [rangeNow, beforeRange_none h]

theorem rangeLate_none {s : State} (h : s.cpu.recent = []) : rangeLate s = raiseLate s .scmDirectRange := by
  rw [rangeLate, beforeRange_none h]

/-! ### The lost store -/

/-- Undoing a store changes its word alone. -/
theorem undoStore_spec (s : State) (r : ScmRef) :
    undoStore s r = { s with scm := (undoStore s r).scm }
      ∧ ∀ n, memRead (undoStore s r).scm n = memRead s.scm n
        ∨ ∃ a : ScmAddr, n = a.toNat ∧ r = .store a (memRead (undoStore s r).scm n) := by
  cases r with
  | done => exact ⟨rfl, fun n => .inl rfl⟩
  | store a old =>
    obtain ⟨h1, h2, h3⟩ := scmPut_spec s a old
    refine ⟨h1, fun n => ?_⟩
    by_cases hn : n = a.toNat
    · subst hn
      by_cases he : scmExists s a = true
      · exact .inr ⟨a, rfl, by rw [undoStore, h3, if_pos he]⟩
      · exact .inl (by rw [undoStore, h3, if_neg he])
    · exact .inl (h2 n hn)

/-- A store on record undone or not. -/
theorem undoIf_spec {s : State} {r : ScmRef} (d : Bool) (hr : r ∈ s.cpu.recent) :
    (if d = true then undoStore s r else s) = { s with scm := (if d = true then undoStore s r else s).scm }
      ∧ ∀ n, memRead (if d = true then undoStore s r else s).scm n = memRead s.scm n
        ∨ ∃ a : ScmAddr, n = a.toNat ∧ ScmRef.store a (memRead (if d = true then undoStore s r else s).scm n) ∈ s.cpu.recent := by
  cases d
  · exact ⟨rfl, fun _ => .inl rfl⟩
  · obtain ⟨h1, h2⟩ := undoStore_spec s r
    exact ⟨h1, fun n => (h2 n).imp_right fun ⟨a, e, f⟩ => ⟨a, e, f ▸ hr⟩⟩

/-- The abort changes no word but those of the stores on record, each to what its store replaced. -/
theorem abortStores_spec (s : State) :
    abortStores s = { s with scm := (abortStores s).scm }
      ∧ ∀ n, memRead (abortStores s).scm n = memRead s.scm n
        ∨ ∃ a : ScmAddr, n = a.toNat ∧ ScmRef.store a (memRead (abortStores s).scm n) ∈ s.cpu.recent := by
  unfold abortStores
  dsimp only
  split
  · exact ⟨rfl, fun _ => .inl rfl⟩
  · rename_i r1 hr
    exact undoIf_spec _ (hr ▸ List.mem_cons_self)
  · rename_i r1 r2 l hr
    obtain ⟨k1, k2⟩ := undoIf_spec (Config.drawBool s.tick (.abortStore 1)) (r := r1) (hr ▸ List.mem_cons_self)
    generalize (if Config.drawBool s.tick (.abortStore 1) = true then undoStore s r1 else s) = t at k1 k2 ⊢
    have hm : r2 ∈ t.cpu.recent := by rw [k1, hr]; simp
    have ht : t.cpu.recent = s.cpu.recent := by rw [k1]
    generalize (Config.drawBool s.tick (.abortStore 2) && !(sameWord r1 r2 && !Config.drawBool s.tick (.abortStore 1))) = d
    obtain ⟨h1, h2⟩ := undoIf_spec d hm
    exact ⟨h1.trans (congrArg (fun u : State => { u with scm := (if d = true then undoStore t r2 else t).scm }) k1),
      fun n => (h2 n).elim (fun h => h ▸ k2 n) fun ⟨a, e, f⟩ => .inr ⟨a, e, ht ▸ f⟩⟩

/-- SCM Direct Range becoming set changes SCM and the record of stores, as R489 says. -/
theorem beforeRange_spec (s : State) :
    beforeRange s = { s with scm := (beforeRange s).scm, cpu := { s.cpu with recent := (beforeRange s).cpu.recent } }
      ∧ RangeEffect s (beforeRange s) := by
  unfold beforeRange RangeEffect
  split
  · exact ⟨rfl, rfl, rfl⟩
  · obtain ⟨h1, h2⟩ := abortStores_spec s
    refine ⟨?_, rfl, h2⟩
    conv => lhs; rw [h1]

/-! ### Instructions over one shared operation -/

/-- 50 to 57 are `setAddr`. -/
theorem exec_of_setsA {s : State} {ins : Instr} {i : Reg} {r : Word18} (h : SetsA s ins i r) :
    exec ins s = .next (setAddr s i r) := by
  cases h <;> rfl

/-- 60 to 67 are `setB`. -/
theorem exec_of_setsB {s : State} {ins : Instr} {i : Reg} {r : Word18} (h : SetsB s ins i r) :
    exec ins s = .next (setB s i r) := by
  cases h <;> rfl

/-- 70 to 77 are `setX` of the sign-extended sum. -/
theorem exec_of_setsX {s : State} {ins : Instr} {i : Reg} {r : Word18} (h : SetsX s ins i r) :
    exec ins s = .next (setX s i (r.signExtend 60)) := by
  cases h <;> rfl

/-- The eleven floating instructions are `deliver`. -/
theorem exec_of_floatsTo {s : State} {ins : Instr} {i : Reg} {r : FpResult} (h : FloatsTo s ins i r) :
    exec ins s = .next (deliver s i r) := by
  cases h <;> rfl

/-! ### The exchange jump -/

/-- Two different words of a package stand at different addresses. -/
theorem pkgAddr_inj (a : ScmAddr) {v w : Nat} (hv : v < 16) (hw : w < 16) (h : (pkgAddr a v).toNat = (pkgAddr a w).toNat) :
    v = w := by
  simp only [pkgAddr, BitVec.toNat_add, BitVec.toNat_ofNat] at h
  have := a.isLt
  omega

/-- The word that a reference concerns has not been written. -/
theorem exchangeWord_some {s : State} {x : Exchange} {w : Fin 16} (h : exchangeWord s x = some w) : x.put[w] = false := by
  have := List.mem_of_getElem? h
  simpa using (List.mem_filter.1 this).2

/-- The load comes when every word has been written, and only then. -/
theorem exchangeWord_none {s : State} {x : Exchange} : exchangeWord s x = none ↔ ∀ w : Fin 16, x.put[w] = true := by
  unfold exchangeWord
  dsimp only
  generalize hl : (List.finRange 16).filter (fun w => !x.put[w]) = l
  have hm : ∀ w : Fin 16, w ∈ l ↔ x.put[w] = false := by
    intro w; rw [← hl, List.mem_filter]; simp
  rw [List.getElem?_eq_none_iff]
  constructor
  · intro h w
    by_contra hw
    have := List.length_pos_of_mem ((hm w).2 (by simpa using hw))
    have := Nat.mod_lt (Config.draw s.tick .exchangeOrder).toNat this
    omega
  · intro h
    cases l with
    | nil => simp
    | cons w l => exact absurd ((hm w).1 List.mem_cons_self) (by simp [h w])

/-- A read of the sequence where no parity error waits: the word enters, nothing else changes. -/
theorem exchangeRead_spec {s : State} (x : Exchange) (w : Fin 16) (h : s.scmBad = []) :
    exchangeRead s x w = { s with cpu := { s.cpu with
      phase := .exchanging { x with got := x.got.set w (some (scmValue s 200 (pkgAddr x.addr w))) } } } := by
  simp only [exchangeRead]
  rw [scmDetect_none _ h]

/-- A write of the sequence where no parity error waits: one word of SCM, nothing else. -/
theorem exchangeWrite_spec {s : State} (x : Exchange) (w : Fin 16) (h : s.scmBad = []) :
    exchangeWrite s x w = { s with
      scm := (scmPut s (pkgAddr x.addr w) (exchangeOut s x w)).scm
      cpu := { s.cpu with phase := .exchanging { x with put := x.put.set w true } } } := by
  have e := (scmPut_spec s (pkgAddr x.addr w) (exchangeOut s x w)).1
  have k : (scmPut s (pkgAddr x.addr w) (exchangeOut s x w)).scmBad = [] := by rw [e]; exact h
  simp only [exchangeWrite]
  rw [scmDetect_none _ k, e]

/-- A word that a step stores in an exchange sequence has been read and not written before (R412). -/
theorem wordStored_some {s : State} {w : Fin 16} {v : Word60} (h : wordStored s = some (w, v)) :
    ∃ x, s.cpu.phase = .exchanging x ∧ x.put[w] = false ∧ x.got[w].isSome = true ∧ v = exchangeOut s x w := by
  unfold wordStored at h
  split at h
  · split at h
    · rename_i x hx
      obtain ⟨a, ha, hb⟩ := Option.bind_eq_some_iff.1 h
      split at hb
      · cases hb
      · rename_i hg
        cases hb
        refine ⟨x, hx, exchangeWord_some ha, ?_, rfl⟩
        cases hq : x.got[w] <;> simp_all
    · cases h
  · cases h

/-- Raising a flag keeps where the CPU goes on. -/
theorem raiseWith_flow (s : State) (f : PsdFlag) (n : Nat) : (raiseWith s f n).cpu.flow = s.cpu.flow := by
  rw [(raiseWith_spec s f n).1]

/-- An exchange jump that begins says so by the flow, whatever comes after. -/
theorem exchangeJump_exits (s : State) (a : ScmAddr) (p : Word18) (who : Initiator) :
    (exchangeJump s a p who).cpu.flow = .exited := rfl

/-! ### Block copies -/

/-- One word of 011 where no parity error waits: one word of SCM; the stores that could be lost forget that word. -/
theorem copyToScm_spec {s : State} (l : BitVec 19) (r : Word18) (h : NoParity s) :
    copyToScm s l r = scmForget (scmPut s (scmAbs s r) (lcmValue s (lcmAbs s l))) (scmAbs s r) := by
  simp only [copyToScm, scmStore]
  rw [lcmDetect_none _ h.2]
  refine scmDetect_none _ ?_
  rw [scmForget_scmBad, (scmPut_spec _ _ _).1]
  exact h.1

/-- One word of 012 where no parity error waits: one word of LCM, nothing else. -/
theorem copyToLcm_spec {s : State} (l : BitVec 19) (r : Word18) (h : NoParity s) :
    copyToLcm s l r = lcmPut s (lcmAbs s l) (scmValue s 0 (scmAbs s r)) := by
  simp only [copyToLcm]
  rw [scmDetect_none _ h.1]

/-! ### Fetching a word -/

theorem iwsLoad_spec {s : State} (who : Nat) (w : Word18) (h : s.scmBad = []) :
    ∃ l, iwsLoad s who w = { s with cpu := { s.cpu with iws := l } } := by
  simp only [iwsLoad, scmDetect_none _ h]
  exact ⟨_, rfl⟩

theorem iwsAhead_spec {s : State} (who : Nat) (w : Word18) (h : s.scmBad = []) :
    ∃ l, iwsAhead s who w = { s with cpu := { s.cpu with iws := l } } := by
  unfold iwsAhead
  split
  · exact iwsLoad_spec who w h
  · exact ⟨s.cpu.iws, rfl⟩

/-- A fetch where no parity error waits changes the instruction word stack and nothing else. -/
theorem fetchStack_spec {s : State} (w : Word18) (h : s.scmBad = []) :
    ∃ l, fetchStack s w = { s with cpu := { s.cpu with iws := l } } := by
  unfold fetchStack
  dsimp only
  split
  · obtain ⟨l1, e1⟩ := iwsLoad_spec 1 w h
    obtain ⟨l2, e2⟩ := iwsLoad_spec (s := { s with cpu := { s.cpu with iws := l1 } }) 2 (w + 1) h
    rw [e1, e2]
    exact iwsAhead_spec (s := { s with cpu := { s.cpu with iws := l2 } }) 3 (w + 2) h
  · obtain ⟨l1, e1⟩ := iwsAhead_spec 2 (w + 1) h
    rw [e1]
    exact iwsAhead_spec (s := { s with cpu := { s.cpu with iws := l1 } }) 3 (w + 2) h

/-- So does making a word current, beside the fields that it sets. -/
theorem loadWord_spec {s : State} (w : Word18) (h : s.scmBad = []) :
    ∃ l, loadWord s w = { s with cpu := { s.cpu with
      p := w, ciw := fetchValue s w, iws := l, parcel := 0, phase := .inWord, issued := 0, inc30 := 0, branched := false } } := by
  obtain ⟨l, e⟩ := fetchStack_spec w h
  exact ⟨l, by simp only [loadWord, e]⟩

/-! ### The multiplexer -/

/-- The request that SCM serves is out, and every one received before it has been withdrawn. -/
theorem servedRequest_spec {s : State} {r : ScmRequest} (h : servedRequest s = some r) :
    requestOut s r = true ∧ ∃ l m, s.scmQueue = l ++ r :: m ∧ ∀ q ∈ l, requestOut s q = false := by
  obtain ⟨h1, l, m, h2, h3⟩ := List.find?_eq_some_iff_append.1 h
  exact ⟨h1, l, m, h2, fun q hq => by simpa using h3 q hq⟩

/-- No store to `a` stays on record as one that could be lost. -/
theorem store_notMem_scmForget (s : State) (a : ScmAddr) (old : Word60) :
    ScmRef.store a old ∉ (scmForget s a).cpu.recent := by
  simp only [scmForget, List.mem_map, not_exists, not_and]
  intro r _ h
  cases r with
  | done => cases h
  | store b v =>
    simp only [settleRef] at h
    split at h <;> cases h
    exact absurd rfl ‹_›

/-- A store of anything but an instruction 50 to 57, where no parity error waits and the word exists: that word of SCM, and
the record, where no store to it can be lost any more. -/
theorem scmStore_spec {s : State} {a : ScmAddr} (v : Word60) (h : s.scmBad = []) (e : scmExists s a = true) :
    scmStore s a v = { s with scm := (scmStore s a v).scm, cpu := { s.cpu with recent := (scmStore s a v).cpu.recent } }
      ∧ memRead (scmStore s a v).scm a.toNat = v
      ∧ (∀ n, n ≠ a.toNat → memRead (scmStore s a v).scm n = memRead s.scm n)
      ∧ ∀ old, ScmRef.store a old ∉ (scmStore s a v).cpu.recent := by
  obtain ⟨h1, h2, h3⟩ := scmPut_spec s a v
  have k : scmStore s a v = scmForget (scmPut s a v) a :=
    scmDetect_none _ (by rw [scmForget_scmBad, h1]; exact h)
  rw [k]
  refine ⟨?_, ?_, h2, store_notMem_scmForget _ _⟩
  · rw [scmForget, h1]
  · rw [scmForget_scm, h3, if_pos e]

/-- The request of an instruction is the CPU's. -/
theorem instrRequest_ofCpu {i : Instr} {r : ScmRequest} (h : instrRequest i = some r) : r.ofCpu = true := by
  unfold instrRequest at h
  split at h <;> first | (split at h <;> cases h; rfl) | (cases h; rfl) | cases h

/-- The CPU's request is of one of its five classes. -/
theorem cpuRequest_ofCpu {s : State} {r : ScmRequest} (h : cpuRequest s = some r) : r.ofCpu = true := by
  have hw : ∀ b, wordRequest s b = some r → r.ofCpu = true := by
    intro b hb
    dsimp only [wordRequest] at hb
    by_cases h1 : (makeCurrent s b).cpu.phase = .inWord
    · rw [if_pos h1] at hb
      split at hb
      · cases hb; rfl
      · exact instrRequest_ofCpu hb
    · rw [if_neg h1] at hb; cases hb
  unfold cpuRequest at h
  split at h
  · cases h
  · exact hw _ h
  · exact hw _ h
  · exact instrRequest_ofCpu h
  · split at h <;> cases h; rfl
  · split at h <;> cases h; rfl

/-- The multiplexer's requests: the Word Requests and the MCU's. -/
theorem mem_multiplexerNew (s : State) (mcu : Option Nat) (r : ScmRequest) :
    r ∈ multiplexerNew s mcu ↔ r ∈ muxNew s ∨ mcu.isSome = true ∧ mcuNew s = some r := by
  have hm : ∀ n, (r ∈ (muxNew s).take n ∨ r ∈ (muxNew s).drop n) ↔ r ∈ muxNew s := by
    intro n; rw [← List.mem_append, List.take_append_drop]
  cases mcu with
  | none => simp [multiplexerNew]
  | some n =>
    cases e : mcuNew s with
    | none => simp [multiplexerNew, e]
    | some q =>
      simp only [multiplexerNew, e, List.mem_append, List.mem_cons, Option.isSome_some, Option.some.injEq, true_and, ← hm n]
      tauto

/-- What SCM receives at once comes after what it has received before; it holds the Word Requests that were out, the CPU's
request and the MCU's, where the event names them, and nothing else. -/
theorem scmReceive_spec (s : State) (cpu : Bool) (mcu : Option Nat) :
    ∃ l m, scmReceive s cpu mcu = { s with scmQueue := s.scmQueue ++ l, mcuOut := m }
      ∧ (∀ r, r ∈ l ↔ r ∈ muxNew s ∨ cpu = true ∧ cpuNew s = some r ∨ mcu.isSome = true ∧ mcuNew s = some r)
      ∧ m = if mcu.isSome && (mcuNew s).isSome then s.mcuOut.tail else s.mcuOut := by
  refine ⟨_, _, rfl, fun r => ?_, rfl⟩
  have hc : ∀ q, cpuNew s = some q → q.rank ≠ 4 := by
    intro q hq
    unfold cpuNew at hq
    split at hq
    · cases hq
    · simpa [ScmRequest.ofCpu] using cpuRequest_ofCpu hq
  have hg := mem_multiplexerNew s mcu r
  rw [List.mem_append, List.mem_append, hg]
  cases cpu
  · simp
  · cases e : cpuNew s with
    | none => simp
    | some q =>
      have := hc q e
      simp only [if_true, Option.toList_some, List.mem_filter, List.mem_singleton, decide_eq_true_eq, Option.some.injEq, true_and]
      constructor
      · rintro ((⟨rfl, _⟩ | h | h) | ⟨rfl, _⟩) <;> tauto
      · rintro (h | rfl | h)
        · tauto
        · rcases Nat.lt_or_gt_of_ne this with h | h <;> tauto
        · tauto

/-- Where SCM has no request of the CPU, none of it is withdrawn. -/
theorem cpuServed_empty {s : State} (h : s.scmQueue = []) : cpuServed s = s := by
  simp only [cpuServed, h, List.filter_nil]; rw [← h]

/-- The CPU's turn where SCM has received nothing: it moves. -/
theorem cpuTurn_empty {s : State} (hc : cpuHeld s = false) (h : s.scmQueue = []) : cpuTurn s = cpuMove s := by
  have e : cpuMustWait s = false := by simp [cpuMustWait, h]
  simp [cpuTurn, hc, e, cpuServed_empty h]

/-! ### A PPU goes on -/

/-- Where P + n does not pass 7777, an operation of `ppuThen` completes. -/
theorem ppuThen_next {s : State} {u : Ppu} {n : Nat} {p : Word12} (h : nextAddr s.cfg.pWrap u.p n = some p) :
    ppuThen s u n = .next (setPpu s { u with p := p }) := by
  simp only [ppuThen, h]

/-- Replacing the executing PPU changes nothing else. -/
theorem onlyPpu_setPpu (s : State) (u : Ppu) : OnlyPpu s (setPpu s u) := by
  refine ⟨rfl, fun v hv => ?_⟩
  simp only [setPpu, Fin.getElem_fin, Vector.getElem_set]
  exact if_neg fun e => hv (Fin.ext e.symm)

/-- Changing one PPU leaves every other. -/
theorem updPpu_getElem (s : State) (u v : Unit16) (f : Ppu → Ppu) :
    (updPpu s u f).ppus[v] = if u = v then f s.ppus[u] else s.ppus[v] := by
  simp only [updPpu, Fin.getElem_fin, Vector.getElem_set]
  by_cases h : u = v
  · subst h; simp
  · rw [if_neg h]
    exact if_neg fun e => h (Fin.ext e)

/-- A dead start changes no word but the one that an instruction cut short was storing to. -/
theorem cutShort_read {q : Ppu} {w : PWrap} {b : Word12} (v : Word12) (h : q.storing w ≠ some b) :
    (q.cutShort w v).read b = q.read b := by
  unfold Ppu.cutShort
  split
  · rename_i a e
    exact memRead_write_other _ _ _ _ fun x => h (by rw [e, BitVec.eq_of_toNat_eq x])
  · rfl

/-! ### No level acts -/

theorem mcuBit_zero {s : State} (h : mcuControl s = 0) (n : Nat) : mcuBit s n = false := by simp [mcuBit, h]

/-- Where no Output Word flag waits for a Resume level, the levels change no PPU. -/
theorem levelPpus_idle {cfg : Config} {ppus : Vector Ppu 16} (mux : Vector MuxChan 16)
    (h : ∀ (c u : Unit16) (n : Cable), cfg.highSpeed[c] = true → muxSource cfg c = some (.ppu u n) →
      ppus[u].outw[n] = false) : levelPpus cfg mux ppus = ppus := by
  unfold levelPpus
  induction List.finRange 16 with
  | nil => rfl
  | cons c l ih =>
    rw [List.foldl_cons]
    refine Eq.trans (congrArg (fun v => List.foldl _ v l) ?_) ih
    split
    · rename_i hc
      simp only [Bool.and_eq_true] at hc
      split
      · rename_i u n hs
        have e : ppus[u].outw.set n false = ppus[u].outw := by
          rw [← h c u n hc.1.2 hs]; exact Vector.set_getElem_self _
        rw [Ppu.wordTaken, e]
        exact Vector.set_getElem_self _
      · rfl
    · rfl

/-- Where no level acts, the end of a step changes nothing but the step counter. -/
theorem settle_idle {s : State} (h : LevelsIdle s) : settle s = s := by
  obtain ⟨h1, h2, h3⟩ := h
  have hs : scanTarget s = none := by
    have : scanSel s = 0 := by simp [scanSel, h1]
    simp [scanTarget, this]
  have e : resumeLevels s = s := by simp only [resumeLevels, levelPpus_idle s.mux h3]
  simp [settle, hs, applyMcuLevels, applyCpuLevels, mcuBit_zero h1, h2, e]

/-- A step of the quiet machine is what the CPU does, and what it answers has still to settle. -/
theorem step_quiet {s : State} (h : Quiet s) : step s = onNext (cpuMove s) endStep := by
  have e : popEvent s = s := by simp only [popEvent, h.2.1, List.tail_nil]; rw [← h.2.1]
  have k : cpuHeld s = false := by simp [cpuHeld, mcuBit_zero h.1.1]
  simp [step, nextEvent, h.2.1, e, turn, cpuTurn_empty k h.2.2]

/-- The quiet machine inside an exchange sequence takes the next step of it. -/
theorem step_exchanging {s : State} {x : Exchange} (h : Quiet s) (hx : s.cpu.phase = .exchanging x) :
    step s = .next (endStep (exchangeStep s x)) := by
  simp [step_quiet h, cpuMove, hx, onNext]

/-- The quiet machine inside a block copy takes the next step of it. -/
theorem step_copying {s : State} {c : CopyRun} (h : Quiet s) (hc : s.cpu.phase = .copying c) :
    step s = .next (endStep (copyTurn s c)) := by
  simp [step_quiet h, cpuMove, hc, onNext]

end Sys2Proof.Machine
end

