-- ==== Sys2Proof/Tests/Slice0.lean ====
section
/-!
SUPPORT. Small tests of the model: terms that the well-formedness check refuses, one word written out for every
constructor, results on the vectors of 95_test_vectors.md, and for every statement with hypotheses a state that meets them.
-/

namespace Sys2Proof.Machine

open Sys2Proof

set_option Elab.async false

/-! ### What a test looks at -/

/-- Something of the next state. -/
def seen {α : Type} (r : Outcome) (f : State → α) : Option α :=
  match r with
  | .next s => some (f s)
  | _ => none

/-- X[i]. -/
def xOf (r : Outcome) (i : Reg) : Option Word60 := seen r (getX · i)

/-- X[i] and B[j]. -/
def xbOf (r : Outcome) (i j : Reg) : Option (Word60 × Word18) := seen r (fun s => (getX s i, getB s j))

/-- X[i] and the PSD. -/
def xpOf (r : Outcome) (i : Reg) : Option (Word60 × Word18) := seen r (fun s => (getX s i, s.cpu.psd))

/-- B[i]. -/
def bOf (r : Outcome) (i : Reg) : Option Word18 := seen r (getB · i)

/-- A[i]. -/
def aOf (r : Outcome) (i : Reg) : Option Word18 := seen r (getA · i)

/-- A[i] and X[i]. -/
def axOf (r : Outcome) (i : Reg) : Option (Word18 × Word60) := seen r (fun s => (getA s i, getX s i))

/-- The SCM word at absolute address n. -/
def scmOf (r : Outcome) (n : Nat) : Option Word60 := seen r (fun s => memRead s.scm n)

/-- The LCM word at absolute address n. -/
def lcmOf (r : Outcome) (n : Nat) : Option Word60 := seen r (fun s => memRead s.lcm n)

/-- Where the CPU goes on. -/
def flowOf (r : Outcome) : Option Flow := seen r (·.cpu.flow)

/-- Where the CPU stands. -/
def phaseOf (r : Outcome) : Option Phase := seen r (·.cpu.phase)

/-- Whether a PSD flag is set. -/
def psdHasOf (r : Outcome) (f : PsdFlag) : Option Bool := seen r (flag · f)

/-- The buffer address and assembly count of input channel c. -/
def inOf (r : Outcome) (c : Unit16) : Option (BitVec 8 × BitVec 3) :=
  seen r (fun s => (s.mux[c].inp.bufAddr, s.mux[c].inp.asmCnt))

/-- The registers of output channel c that 0170 sets. -/
def outOf (r : Outcome) (c : Unit16) : Option (BitVec 8 × BitVec 3 × Bool × Bool × Nat) :=
  seen r (fun s => (s.mux[c].out.bufAddr, s.mux[c].out.disCnt, s.mux[c].out.wordReq, s.mux[c].out.active, s.mux[c].out.owesRec))

/-- A and P of the executing PPU. -/
def apOf (r : Outcome) : Option (Word18 × Word12) := seen r (fun s => ((getPpu s).a, (getPpu s).p))

/-- A and the memory word at n of the executing PPU. -/
def amOf (r : Outcome) (n : Word12) : Option (Word18 × Word12) := seen r (fun s => ((getPpu s).a, (getPpu s).read n))

/-- P of the executing PPU. -/
def pOf (r : Outcome) : Option Word12 := seen r (fun s => (getPpu s).p)

/-- Whether the executing PPU has stopped, and its P. -/
def stopOf (r : Outcome) : Option (Bool × Word12) := seen r (fun s => ((getPpu s).stopped, (getPpu s).p))

/-- A, P, the input flags and the Resume Pulses of cable c. -/
def ioOf (r : Outcome) (c : Cable) : Option (Word18 × Word12 × Bool × Bool × Nat) :=
  seen r (fun s => ((getPpu s).a, (getPpu s).p, (getPpu s).inw[c], (getPpu s).inr[c], (getPpu s).sentS[c]))

/-- The lines, the Output Word flag and the Word Pulses of cable c, and P. -/
def outwOf (r : Outcome) (c : Cable) : Option (Word12 × Bool × Nat × Word12) :=
  seen r (fun s => ((getPpu s).outData[c], (getPpu s).outw[c], (getPpu s).sentW[c], (getPpu s).p))

/-- The Output Record flag and the Record Pulses of cable c, and P. -/
def outrOf (r : Outcome) (c : Cable) : Option (Bool × Nat × Word12) :=
  seen r (fun s => ((getPpu s).outr[c], (getPpu s).sentR[c], (getPpu s).p))

/-- IOP, Q and P of the executing PPU. -/
def iopOf (r : Outcome) : Option (Iop × Word12 × Word12) :=
  seen r (fun s => ((getPpu s).iop, (getPpu s).q, (getPpu s).p))

/-! ### States -/

/-- Reset with (X1) = v, (X2) = w. -/
def xs (v w : Word60) : State := setX (setX State.reset 1 v) 2 w

/-- Reset with (X1) = v, (B3) = b. -/
def xb (v : Word60) (b : Word18) : State := setB (setX State.reset 1 v) 3 b

/-- Reset with (B1) = p, (B2) = q. -/
def b2 (p q : Word18) : State := setB (setB State.reset 1 p) 2 q

/-- The registers and storage of 95_test_vectors.md 2.10, and the fields and addresses of an execution interval. -/
def incs : State :=
  { State.reset with
    scm := [(0o7776, 0o17), (0o10077, 0o07070707070707070707#60), (0o10120, 0o120), (0o10150, 0o11112222333344445555#60),
            (0o11000, 0o52525252525252525252#60)]
    cpu := { Cpu.reset with
      x := #v[0, 0o77777777777777777777#60, 0, 0, 0o12345670123456777775#60, 0, 0o66660000000000000006#60,
              0o70000000000000000007#60]
      a := #v[0, 0, 0o100, 0, 0, 0o400000, 0, 0]
      b := #v[0, 0, 0, 0o20, 0o777777, 0, 0, 0]
      p := 0o100, ras := 0o10000, fls := 0o1000, eea := 0o200, nea := 0o400, bpa := 0o777777, phase := .inWord } }

/-- The fields, registers and storage of the block copies (95_test_vectors.md 2.12). -/
def blk : State :=
  { State.reset with
    scm := [(0o10500, 0o2000), (0o10501, 0o2001), (0o10502, 0o2002), (0o10503, 0o2003)]
    lcm := [(0o40100, 0o1000), (0o40101, 0o1001), (0o40102, 0o1002), (0o40103, 0o1003)]
    cpu := { Cpu.reset with
      x := #v[0o100, 0, 0, 0o33, 0o2000, 0, 0, 0]
      a := #v[0o500, 0, 0, 0, 0, 0, 0, 0]
      b := #v[0, 0, 3, 0, 0, 0, 0, 0]
      ras := 0o10000, fls := 0o1000, ral := 0o40000, fll := 0o2000, phase := .inWord } }

/-- Inside a block copy of `n` words. -/
def copying (toScm : Bool) (n : Nat) : State :=
  { blk with cpu := { blk.cpu with phase := .copying ⟨toScm, 0o100, 0o500, n⟩ } }

/-- A running clock, and channel 12 in the middle of its transfers; (B2) names it (95_test_vectors.md 2.13). -/
def chs : State :=
  { setB State.reset 2 0o777752 with
    clk := 7
    rtcFlag := true
    mux := State.reset.mux.set 10
      ⟨{ MuxIn.reset with bufAddr := 0o57, asmCnt := 3 }, { MuxOut.reset with bufAddr := 0o17, disCnt := 2 }⟩ }

/-- In Monitor Mode. -/
def monitor (s : State) : State := setFlag s .monitorMode

/-- PPU 1 at p with (A) = a and memory m. -/
def ppAt (p : Word12) (a : Word18) (m : Mem 12) : State :=
  setPpu State.reset { Ppu.reset with p := p, a := a, mem := m, iop := .idle }

/-- PPU 1 at 1000. -/
def pp (a : Word18) (m : Mem 12) : State := ppAt 0o1000 a m

/-- PPU 1 at 100 with the Input Word flag of cable c. -/
def inwSet (c : Cable) : State :=
  setPpu (ppAt 0o100 0 []) { getPpu (ppAt 0o100 0 []) with inw := (Vector.replicate 8 false).set c true }

/-- PPU 1 at 100 with the Input Record flag of cable c. -/
def inrSet (c : Cable) : State :=
  setPpu (ppAt 0o100 0 []) { getPpu (ppAt 0o100 0 []) with inr := (Vector.replicate 8 false).set c true }

/-- PPU 1 at 100 with the Output Word flag of cable c. -/
def outwSet (c : Cable) : State :=
  setPpu (ppAt 0o100 0 []) { getPpu (ppAt 0o100 0 []) with outw := (Vector.replicate 8 false).set c true }

/-- PPU 1 at 100 with the Output Record flag of cable c. -/
def outrSet (c : Cable) : State :=
  setPpu (ppAt 0o100 0 []) { getPpu (ppAt 0o100 0 []) with outr := (Vector.replicate 8 false).set c true }

/-- PPU 1 at 100 with a word on input cable 2. -/
def inputReady : State :=
  setPpu (ppAt 0o100 0o777777 []) { getPpu (ppAt 0o100 0o777777 []) with
    inw := (Vector.replicate 8 false).set 2 true, inr := (Vector.replicate 8 false).set 2 true,
    inLines := (Vector.replicate 8 0).set 2 0o1234 }

/-! ### Well-formedness -/

/-- 30_encoding.md R127: 016 with j = 0 is 0160, so this term is no read of a status. -/
theorem test_ib016_needs_j : ¬ (Instr.ib016 0 5).WellFormed := by decide

/-- 30_encoding.md R127: 017 with j = 0 is 0170. -/
theorem test_ob017_needs_j : ¬ (Instr.ob017 0 5).WellFormed := by decide

/-- With j not 0 they are instructions, and so is every other term tried here. -/
theorem test_wellFormed_terms :
    (Instr.ib016 7 7).WellFormed ∧ (Instr.ob017 1 0).WellFormed ∧ (Instr.ri0160 0).WellFormed ∧ Instr.es00.WellFormed := by
  decide

/-! ### Decoding: a word written out for every constructor -/

/-- 30_encoding.md R122, R126: gh ijk, with i = 3, j = 5, k = 6. -/
theorem test_decode_cpu15_1 :
    decodeCpu false 0o00777 0 = .es00
    ∧ decodeCpu false 0o01300 0 = .mj013Nea
    ∧ decodeCpu false 0o01456 0 = .rx014 5 6
    ∧ decodeCpu false 0o01556 0 = .wx015 5 6
    ∧ decodeCpu false 0o01606 0 = .ri0160 6
    ∧ decodeCpu false 0o01656 0 = .ib016 5 6
    ∧ decodeCpu false 0o01706 0 = .ro0170 6
    ∧ decodeCpu false 0o01756 0 = .ob017 5 6
    ∧ decodeCpu false 0o10350 0 = .bx10 3 5
    ∧ decodeCpu false 0o11356 0 = .bx11 3 5 6
    ∧ decodeCpu false 0o12356 0 = .bx12 3 5 6
    ∧ decodeCpu false 0o13356 0 = .bx13 3 5 6 := by decide +kernel

/-- 30_encoding.md R122, R126: gh ijk, with i = 3, j = 5, k = 6. -/
theorem test_decode_cpu15_2 :
    decodeCpu false 0o14306 0 = .bx14 3 6
    ∧ decodeCpu false 0o15356 0 = .bx15 3 5 6
    ∧ decodeCpu false 0o16356 0 = .bx16 3 5 6
    ∧ decodeCpu false 0o17356 0 = .bx17 3 5 6
    ∧ decodeCpu false 0o20356 0 = .lx20 3 0o56
    ∧ decodeCpu false 0o21356 0 = .ax21 3 0o56
    ∧ decodeCpu false 0o22356 0 = .lx22 3 5 6
    ∧ decodeCpu false 0o23356 0 = .ax23 3 5 6
    ∧ decodeCpu false 0o24356 0 = .nx24 3 5 6
    ∧ decodeCpu false 0o25356 0 = .zx25 3 5 6
    ∧ decodeCpu false 0o26356 0 = .ux26 3 5 6
    ∧ decodeCpu false 0o27356 0 = .px27 3 5 6 := by decide +kernel

/-- 30_encoding.md R122, R126: gh ijk, with i = 3, j = 5, k = 6. -/
theorem test_decode_cpu15_3 :
    decodeCpu false 0o30356 0 = .fx30 3 5 6
    ∧ decodeCpu false 0o31356 0 = .fx31 3 5 6
    ∧ decodeCpu false 0o32356 0 = .dx32 3 5 6
    ∧ decodeCpu false 0o33356 0 = .dx33 3 5 6
    ∧ decodeCpu false 0o34356 0 = .rx34 3 5 6
    ∧ decodeCpu false 0o35356 0 = .rx35 3 5 6
    ∧ decodeCpu false 0o36356 0 = .ix36 3 5 6
    ∧ decodeCpu false 0o37356 0 = .ix37 3 5 6
    ∧ decodeCpu false 0o40356 0 = .fx40 3 5 6
    ∧ decodeCpu false 0o41356 0 = .rx41 3 5 6
    ∧ decodeCpu false 0o42356 0 = .dx42 3 5 6
    ∧ decodeCpu false 0o43356 0 = .mx43 3 0o56 := by decide +kernel

/-- 30_encoding.md R122, R126: gh ijk, with i = 3, j = 5, k = 6. -/
theorem test_decode_cpu15_4 :
    decodeCpu false 0o44356 0 = .fx44 3 5 6
    ∧ decodeCpu false 0o45356 0 = .rx45 3 5 6
    ∧ decodeCpu false 0o46000 0 = .no46
    ∧ decodeCpu false 0o47306 0 = .cx47 3 6
    ∧ decodeCpu false 0o53356 0 = .sa53 3 5 6
    ∧ decodeCpu false 0o54356 0 = .sa54 3 5 6
    ∧ decodeCpu false 0o55356 0 = .sa55 3 5 6
    ∧ decodeCpu false 0o56356 0 = .sa56 3 5 6
    ∧ decodeCpu false 0o57356 0 = .sa57 3 5 6
    ∧ decodeCpu false 0o63356 0 = .sb63 3 5 6
    ∧ decodeCpu false 0o64356 0 = .sb64 3 5 6
    ∧ decodeCpu false 0o65356 0 = .sb65 3 5 6 := by decide +kernel

/-- 30_encoding.md R122, R126: gh ijk, with i = 3, j = 5, k = 6. -/
theorem test_decode_cpu15_5 :
    decodeCpu false 0o66356 0 = .sb66 3 5 6
    ∧ decodeCpu false 0o67356 0 = .sb67 3 5 6
    ∧ decodeCpu false 0o73356 0 = .sx73 3 5 6
    ∧ decodeCpu false 0o74356 0 = .sx74 3 5 6
    ∧ decodeCpu false 0o75356 0 = .sx75 3 5 6
    ∧ decodeCpu false 0o76356 0 = .sx76 3 5 6
    ∧ decodeCpu false 0o77356 0 = .sx77 3 5 6 := by decide +kernel

/-- 30_encoding.md R123, R126: gh ij and an 18-bit K whose first digit stands in the first parcel. -/
theorem test_decode_cpu30_1 :
    decodeCpu false 0o01003 0o45670 = .rj010 0o345670
    ∧ decodeCpu false 0o01153 0o45670 = .rl011 5 0o345670
    ∧ decodeCpu false 0o01253 0o45670 = .wl012 5 0o345670
    ∧ decodeCpu true 0o01353 0o45670 = .mj013Bk 5 0o345670
    ∧ decodeCpu false 0o02303 0o45670 = .jp02 3 0o345670
    ∧ decodeCpu false 0o03053 0o45670 = .zr030 5 0o345670
    ∧ decodeCpu false 0o03153 0o45670 = .nz031 5 0o345670
    ∧ decodeCpu false 0o03253 0o45670 = .pl032 5 0o345670
    ∧ decodeCpu false 0o03353 0o45670 = .ng033 5 0o345670
    ∧ decodeCpu false 0o03453 0o45670 = .ir034 5 0o345670
    ∧ decodeCpu false 0o03553 0o45670 = .or035 5 0o345670
    ∧ decodeCpu false 0o03653 0o45670 = .df036 5 0o345670 := by decide +kernel

/-- 30_encoding.md R123, R126: gh ij and an 18-bit K whose first digit stands in the first parcel. -/
theorem test_decode_cpu30_2 :
    decodeCpu false 0o03753 0o45670 = .id037 5 0o345670
    ∧ decodeCpu false 0o04353 0o45670 = .eq04 3 5 0o345670
    ∧ decodeCpu false 0o05353 0o45670 = .ne05 3 5 0o345670
    ∧ decodeCpu false 0o06353 0o45670 = .ge06 3 5 0o345670
    ∧ decodeCpu false 0o07353 0o45670 = .lt07 3 5 0o345670
    ∧ decodeCpu false 0o50353 0o45670 = .sa50 3 5 0o345670
    ∧ decodeCpu false 0o51353 0o45670 = .sa51 3 5 0o345670
    ∧ decodeCpu false 0o52353 0o45670 = .sa52 3 5 0o345670
    ∧ decodeCpu false 0o60353 0o45670 = .sb60 3 5 0o345670
    ∧ decodeCpu false 0o61353 0o45670 = .sb61 3 5 0o345670
    ∧ decodeCpu false 0o62353 0o45670 = .sb62 3 5 0o345670
    ∧ decodeCpu false 0o70353 0o45670 = .sx70 3 5 0o345670 := by decide +kernel

/-- 30_encoding.md R123, R126: gh ij and an 18-bit K whose first digit stands in the first parcel. -/
theorem test_decode_cpu30_3 :
    decodeCpu false 0o71353 0o45670 = .sx71 3 5 0o345670
    ∧ decodeCpu false 0o72353 0o45670 = .sx72 3 5 0o345670 := by decide +kernel

/-- 30_encoding.md R140, R141: ff dd, with d = 25. -/
theorem test_decode_ppu12_1 :
    decodePpu 0o0025 0 = .esn00
    ∧ decodePpu 0o0325 0 = .ujn03 0o25
    ∧ decodePpu 0o0425 0 = .zjn04 0o25
    ∧ decodePpu 0o0525 0 = .njn05 0o25
    ∧ decodePpu 0o0625 0 = .pjn06 0o25
    ∧ decodePpu 0o0725 0 = .mjn07 0o25
    ∧ decodePpu 0o1025 0 = .shn10 0o25
    ∧ decodePpu 0o1125 0 = .lmn11 0o25
    ∧ decodePpu 0o1225 0 = .lpn12 0o25
    ∧ decodePpu 0o1325 0 = .scn13 0o25
    ∧ decodePpu 0o1425 0 = .ldn14 0o25
    ∧ decodePpu 0o1525 0 = .lcn15 0o25 := by decide +kernel

/-- 30_encoding.md R140, R141: ff dd, with d = 25. -/
theorem test_decode_ppu12_2 :
    decodePpu 0o1625 0 = .adn16 0o25
    ∧ decodePpu 0o1725 0 = .sbn17 0o25
    ∧ decodePpu 0o2425 0 = .psn24
    ∧ decodePpu 0o2525 0 = .pass25
    ∧ decodePpu 0o2625 0 = .pass26
    ∧ decodePpu 0o2725 0 = .pass27
    ∧ decodePpu 0o3025 0 = .ldd30 0o25
    ∧ decodePpu 0o3125 0 = .add31 0o25
    ∧ decodePpu 0o3225 0 = .sbd32 0o25
    ∧ decodePpu 0o3325 0 = .lmd33 0o25
    ∧ decodePpu 0o3425 0 = .std34 0o25
    ∧ decodePpu 0o3525 0 = .rad35 0o25 := by decide +kernel

/-- 30_encoding.md R140, R141: ff dd, with d = 25. -/
theorem test_decode_ppu12_3 :
    decodePpu 0o3625 0 = .aod36 0o25
    ∧ decodePpu 0o3725 0 = .sod37 0o25
    ∧ decodePpu 0o4025 0 = .ldi40 0o25
    ∧ decodePpu 0o4125 0 = .adi41 0o25
    ∧ decodePpu 0o4225 0 = .sbi42 0o25
    ∧ decodePpu 0o4325 0 = .lmi43 0o25
    ∧ decodePpu 0o4425 0 = .sti44 0o25
    ∧ decodePpu 0o4525 0 = .rai45 0o25
    ∧ decodePpu 0o4625 0 = .aoi46 0o25
    ∧ decodePpu 0o4725 0 = .soi47 0o25
    ∧ decodePpu 0o7025 0 = .ian70 0o25
    ∧ decodePpu 0o7225 0 = .oan72 0o25 := by decide +kernel

/-- 30_encoding.md R140, R141: ff dd, with d = 25. -/
theorem test_decode_ppu12_4 :
    decodePpu 0o7425 0 = .rfn74 0o25
    ∧ decodePpu 0o7525 0 = .pass75
    ∧ decodePpu 0o7625 0 = .pass76
    ∧ decodePpu 0o7725 0 = .esn77 := by decide +kernel

/-- 30_encoding.md R140, R141: ff dd mmmm. -/
theorem test_decode_ppu24_1 :
    decodePpu 0o0125 0o1234 = .ljm01 0o25 0o1234
    ∧ decodePpu 0o0225 0o1234 = .rjm02 0o25 0o1234
    ∧ decodePpu 0o2025 0o1234 = .ldc20 0o25 0o1234
    ∧ decodePpu 0o2125 0o1234 = .adc21 0o25 0o1234
    ∧ decodePpu 0o2225 0o1234 = .lpc22 0o25 0o1234
    ∧ decodePpu 0o2325 0o1234 = .lmc23 0o25 0o1234
    ∧ decodePpu 0o5025 0o1234 = .ldm50 0o25 0o1234
    ∧ decodePpu 0o5125 0o1234 = .adm51 0o25 0o1234
    ∧ decodePpu 0o5225 0o1234 = .sbm52 0o25 0o1234
    ∧ decodePpu 0o5325 0o1234 = .lmm53 0o25 0o1234
    ∧ decodePpu 0o5425 0o1234 = .stm54 0o25 0o1234
    ∧ decodePpu 0o5525 0o1234 = .ram55 0o25 0o1234 := by decide +kernel

/-- 30_encoding.md R140, R141: ff dd mmmm. -/
theorem test_decode_ppu24_2 :
    decodePpu 0o5625 0o1234 = .aom56 0o25 0o1234
    ∧ decodePpu 0o5725 0o1234 = .som57 0o25 0o1234
    ∧ decodePpu 0o6025 0o1234 = .fim60 0o25 0o1234
    ∧ decodePpu 0o6125 0o1234 = .eim61 0o25 0o1234
    ∧ decodePpu 0o6225 0o1234 = .irm62 0o25 0o1234
    ∧ decodePpu 0o6325 0o1234 = .nim63 0o25 0o1234
    ∧ decodePpu 0o6425 0o1234 = .fom64 0o25 0o1234
    ∧ decodePpu 0o6525 0o1234 = .eom65 0o25 0o1234
    ∧ decodePpu 0o6625 0o1234 = .orm66 0o25 0o1234
    ∧ decodePpu 0o6725 0o1234 = .nom67 0o25 0o1234
    ∧ decodePpu 0o7125 0o1234 = .iam71 0o25 0o1234
    ∧ decodePpu 0o7325 0o1234 = .oam73 0o25 0o1234 := by decide +kernel


/-! ### Results -/

/-- 95_test_vectors.md 2.1. -/
theorem test_bx10_vector :
    xOf (exec (.bx10 0 1) (xs 0o00007777000012345670#60 0o70700707777700001111#60)) 0 = some 0o00007777000012345670#60 := by decide +kernel

/-- 95_test_vectors.md 2.1. -/
theorem test_bx11_vector :
    xOf (exec (.bx11 0 1 2) (xs 0o00007777000012345670#60 0o70700707777700001111#60)) 0 = some 0o00000707000000001010#60 := by decide +kernel

/-- 95_test_vectors.md 2.1. -/
theorem test_bx12_vector :
    xOf (exec (.bx12 0 1 2) (xs 0o00007777000012345670#60 0o70700707777700001111#60)) 0 = some 0o70707777777712345771#60 := by decide +kernel

/-- 95_test_vectors.md 2.1. -/
theorem test_bx13_vector :
    xOf (exec (.bx13 0 1 2) (xs 0o00007777000012345670#60 0o70700707777700001111#60)) 0 = some 0o70707070777712344761#60 := by decide +kernel

/-- 95_test_vectors.md 2.1. -/
theorem test_bx14_vector :
    xOf (exec (.bx14 0 2) (xs 0o00007777000012345670#60 0o70700707777700001111#60)) 0 = some 0o07077070000077776666#60 := by decide +kernel

/-- 95_test_vectors.md 2.1. -/
theorem test_bx15_vector :
    xOf (exec (.bx15 0 1 2) (xs 0o00007777000012345670#60 0o70700707777700001111#60)) 0 = some 0o00007070000012344660#60 := by decide +kernel

/-- 95_test_vectors.md 2.1. -/
theorem test_bx16_vector :
    xOf (exec (.bx16 0 1 2) (xs 0o00007777000012345670#60 0o70700707777700001111#60)) 0 = some 0o07077777000077777676#60 := by decide +kernel

/-- 95_test_vectors.md 2.1. -/
theorem test_bx17_vector :
    xOf (exec (.bx17 0 1 2) (xs 0o00007777000012345670#60 0o70700707777700001111#60)) 0 = some 0o07070707000065433016#60 := by decide +kernel

/-- 95_test_vectors.md 1.2 and 2.2. -/
theorem test_lx20_examples :
    xOf (exec (.lx20 1 0o12) (xs 0o23236600000000000111#60 0)) 1 = some 0o75400000000000222464#60
    ∧ xOf (exec (.lx20 1 0o77) (xs 0o23236600000000000111#60 0)) 1 = some 0o32366000000000001112#60 := by decide +kernel

/-- 95_test_vectors.md 1.2 and 2.2. -/
theorem test_ax21_examples :
    xOf (exec (.ax21 1 0o30) (xs 0o20047655000234000004#60 0)) 1 = some 0o00000000200476550002#60
    ∧ xOf (exec (.ax21 1 0o73) (xs 0o40000000000000000000#60 0)) 1 = some 0o77777777777777777777#60 := by decide +kernel

/-- 95_test_vectors.md 2.3. -/
theorem test_lx22_vectors :
    xOf (exec (.lx22 0 3 1) (xb 0o23236600000000000111#60 0o000103)) 0 = some 0o32366000000000001112#60
    ∧ xOf (exec (.lx22 0 3 1) (xb 0o23236600000000000111#60 0o777774)) 0 = some 0o02323660000000000011#60
    ∧ xOf (exec (.lx22 0 3 1) (xb 0o23236600000000000111#60 0o770077)) 0 = some 0 := by decide +kernel

/-- 95_test_vectors.md 2.3. -/
theorem test_ax23_vectors :
    xOf (exec (.ax23 0 3 1) (xb 0o23236600000000000111#60 0o000003)) 0 = some 0o02323660000000000011#60
    ∧ xOf (exec (.ax23 0 3 1) (xb 0o23236600000000000111#60 0o000103)) 0 = some 0
    ∧ xOf (exec (.ax23 0 3 1) (xb 0o23236600000000000111#60 0o777774)) 0 = some 0o32366000000000001112#60 := by decide +kernel

/-- 95_test_vectors.md 1.2 and 2.2. -/
theorem test_mx43_vectors :
    xOf (exec (.mx43 0 0o24) (xs 0 0)) 0 = some 0o77777760000000000000#60
    ∧ xOf (exec (.mx43 0 0o73) (xs 0 0)) 0 = some 0o77777777777777777776#60
    ∧ xOf (exec (.mx43 0 0) (xs 0 0)) 0 = some 0 := by decide +kernel

/-- 95_test_vectors.md 1.4 and 2.4. -/
theorem test_ux26_examples :
    xbOf (exec (.ux26 0 3 1) (xs 0o60511577777777777777#60 0)) 0 3 = some (0o77771577777777777777#60, 0o777726)
    ∧ xbOf (exec (.ux26 0 3 1) (xs 0o02106301027743156033#60 0)) 0 3 = some (0o00006301027743156033#60, 0o776210)
    ∧ xbOf (exec (.ux26 0 3 1) (xs 0o17770000000000000000#60 0)) 0 3 = some (0, 0o777777) := by decide +kernel

/-- 95_test_vectors.md 1.4 and 2.4. -/
theorem test_px27_examples :
    xOf (exec (.px27 0 3 1) (xb 0o00004771300000447021#60 0o001363)) 0 = some 0o33634771300000447021#60
    ∧ xOf (exec (.px27 0 3 1) (xb 0o76543777777777777777#60 0o777726)) 0 = some 0o60513777777777777777#60
    ∧ xOf (exec (.px27 0 0 1) (xb 0o77777777777777777772#60 0o777726)) 0 = some 0o57777777777777777772#60 := by decide +kernel

/-- 95_test_vectors.md 2.5. -/
theorem test_nx24_vectors :
    xbOf (exec (.nx24 0 3 1) (xs 0o20000000000000000001#60 0)) 0 3 = some (0o17204000000000000000#60, 0o57)
    ∧ xbOf (exec (.nx24 0 3 1) (xs 0o57777777777777777777#60 0)) 0 3 = some (0o77777777777777777777#60, 0o60)
    ∧ xbOf (exec (.nx24 0 3 1) (xs 0o00570000000000000001#60 0)) 0 3 = some (0o00004000000000000000#60, 0o57)
    ∧ xbOf (exec (.nx24 0 3 1) (xs 0o77537777777300000000#60 0)) 0 3 = some (0o77777777777777777777#60, 0o25)
    ∧ xbOf (exec (.nx24 0 3 1) (xs 0o20601234567000000000#60 0)) 0 3 = some (0o20565162734000000000#60, 2) := by decide +kernel

/-- 95_test_vectors.md 2.5. -/
theorem test_zx25_vectors :
    xbOf (exec (.zx25 0 3 1) (xs 0o20000000000000000001#60 0)) 0 3 = some (0o17206000000000000000#60, 0o57)
    ∧ xbOf (exec (.zx25 0 3 1) (xs 0o20000000000000000000#60 0)) 0 3 = some (0o17174000000000000000#60, 0o60)
    ∧ xbOf (exec (.zx25 0 3 1) (xs 0o57777777777777777776#60 0)) 0 3 = some (0o60571777777777777777#60, 0o57)
    ∧ xbOf (exec (.zx25 0 3 1) (xs 0o20601234567000000000#60 0)) 0 3 = some (0o20565162734000000002#60, 2)
    ∧ xbOf (exec (.zx25 0 3 1) (xs 0o40007777777777777777#60 0)) 0 3 = some (0o40007777777777777777#60, 0) := by decide +kernel

/-- 95_test_vectors.md 1.6 and 2.6. -/
theorem test_fx30_sums :
    xpOf (exec (.fx30 0 1 2) (xs 0o17204000000000000000#60 0o17204000000000000000#60)) 0 = some (0o17214000000000000000#60, 0o0)
    ∧ xpOf (exec (.fx30 0 1 2) (xs 0o17204000000000000000#60 0o60573777777777777777#60)) 0 = some (0o17200000000000000000#60, 0o0)
    ∧ xpOf (exec (.fx30 0 1 2) (xs 0o42777777777777777777#60 0o52775555555555555555#60)) 0 = some (0o35000000000000000000#60, 0o0)
    ∧ xpOf (exec (.fx30 0 1 2) (xs 0o37764000000000000000#60 0o37764000000000000000#60)) 0 = some (0o37774000000000000000#60, 0o0)
    ∧ xpOf (exec (.fx30 0 1 2) (xs 0o17204000000000000000#60 0o17174000000000000001#60)) 0 = some (0o17206000000000000000#60, 0o0) := by decide +kernel

/-- 95_test_vectors.md 1.6 and 2.6. -/
theorem test_fx30_special :
    xpOf (exec (.fx30 0 1 2) (xs 0o37770000000000000000#60 0o17204000000000000000#60)) 0 = some (0o37770000000000000000#60, 0o2)
    ∧ xpOf (exec (.fx30 0 1 2) (xs 0o37770000000000000000#60 0o40007777777777777777#60)) 0 = some (0o17770000000000000000#60, 0o4)
    ∧ xpOf (exec (.fx30 0 1 2) (xs 0o60007777777777777777#60 0o17204000000000000000#60)) 0 = some (0o17770000000000000000#60, 0o4)
    ∧ xpOf (exec (.fx30 0 1 2) (xs 0o77777777777777777777#60 0o77777777777777777777#60)) 0 = some (0o77777777777777777777#60, 0o0)
    ∧ xpOf (exec (.fx30 0 1 2) (xs 0o00000000000000000000#60 0o77777777777777777777#60)) 0 = some (0o00000000000000000000#60, 0o0) := by decide +kernel

/-- 95_test_vectors.md 1.6 and 2.6. -/
theorem test_fx31_differences :
    xpOf (exec (.fx31 0 1 2) (xs 0o20000000000000000003#60 0o20000000000000000005#60)) 0 = some (0o57777777777777777775#60, 0o0)
    ∧ xpOf (exec (.fx31 0 1 2) (xs 0o17204000000000000000#60 0o16404000000000000000#60)) 0 = some (0o17203777777777777777#60, 0o0)
    ∧ xpOf (exec (.fx31 0 1 2) (xs 0o17204000000000000000#60 0o37770000000000000000#60)) 0 = some (0o40007777777777777777#60, 0o2)
    ∧ xpOf (exec (.fx31 0 1 2) (xs 0o37770000000000000000#60 0o37770000000000000000#60)) 0 = some (0o17770000000000000000#60, 0o4)
    ∧ xpOf (exec (.fx31 0 1 2) (xs 0o42777777777777777777#60 0o25002222222222222222#60)) 0 = some (0o35000000000000000000#60, 0o0) := by decide +kernel

/-- 95_test_vectors.md 1.6 and 2.6. -/
theorem test_dx32_lower_sums :
    xpOf (exec (.dx32 0 1 2) (xs 0o17204000000000000000#60 0o17216000000000000000#60)) 0 = some (0o16420000000000000000#60, 0o0)
    ∧ xpOf (exec (.dx32 0 1 2) (xs 0o17204000000000000000#60 0o17174000000000000001#60)) 0 = some (0o16404000000000000000#60, 0o0)
    ∧ xpOf (exec (.dx32 0 1 2) (xs 0o00574000000000000001#60 0o00574000000000000000#60)) 0 = some (0o00000000000000000000#60, 0o1)
    ∧ xpOf (exec (.dx32 0 1 2) (xs 0o00604000000000000001#60 0o00604000000000000000#60)) 0 = some (0o00014000000000000000#60, 0o0) := by decide +kernel

/-- 95_test_vectors.md 1.6 and 2.6. -/
theorem test_dx33_lower_differences :
    xpOf (exec (.dx33 0 1 2) (xs 0o17204000000000000000#60 0o17174000000000000001#60)) 0 = some (0o16404000000000000000#60, 0o0)
    ∧ xpOf (exec (.dx33 0 1 2) (xs 0o00570000000000000001#60 0o00570000000000000001#60)) 0 = some (0o77777777777777777777#60, 0o1)
    ∧ xpOf (exec (.dx33 0 1 2) (xs 0o00570000000000000001#60 0o00560000000000000001#60)) 0 = some (0o00000000000000000000#60, 0o1) := by decide +kernel

/-- 95_test_vectors.md 1.6 and 2.6. -/
theorem test_rx34_round_sums :
    xpOf (exec (.rx34 0 1 2) (xs 0o17204000000000000000#60 0o17174000000000000001#60)) 0 = some (0o17206000000000000001#60, 0o0)
    ∧ xpOf (exec (.rx34 0 1 2) (xs 0o20000000000000000003#60 0o17760000000000000001#60)) 0 = some (0o20000000000000000004#60, 0o0)
    ∧ xpOf (exec (.rx34 0 1 2) (xs 0o20000000000000000003#60 0o60017777777777777776#60)) 0 = some (0o20000000000000000002#60, 0o0) := by decide +kernel

/-- 95_test_vectors.md 1.6 and 2.6. -/
theorem test_rx35_round_differences :
    xpOf (exec (.rx35 0 1 2) (xs 0o20000000000000000003#60 0o17760000000000000001#60)) 0 = some (0o20000000000000000002#60, 0o0)
    ∧ xpOf (exec (.rx35 0 1 2) (xs 0o20000000000000000003#60 0o60017777777777777776#60)) 0 = some (0o20000000000000000004#60, 0o0)
    ∧ xpOf (exec (.rx35 0 1 2) (xs 0o17204000000000000000#60 0o17174000000000000001#60)) 0 = some (0o17201777777777777777#60, 0o0) := by decide +kernel

/-- 95_test_vectors.md 1.6 and 2.7. -/
theorem test_fx40_products :
    xpOf (exec (.fx40 0 1 2) (xs 0o17204000000000000000#60 0o17204000000000000000#60)) 0 = some (0o17204000000000000000#60, 0o0)
    ∧ xpOf (exec (.fx40 0 1 2) (xs 0o60573777777777777777#60 0o17216000000000000000#60)) 0 = some (0o60561777777777777777#60, 0o0)
    ∧ xpOf (exec (.fx40 0 1 2) (xs 0o37004000000000000000#60 0o20204000000000000000#60)) 0 = some (0o37770000000000000000#60, 0o2)
    ∧ xpOf (exec (.fx40 0 1 2) (xs 0o37006000000000000000#60 0o20176000000000000000#60)) 0 = some (0o37774400000000000000#60, 0o0)
    ∧ xpOf (exec (.fx40 0 1 2) (xs 0o06477777777777777776#60 0o10504444444444444444#60)) 0 = some (0o00000000000000000000#60, 0o1) := by decide +kernel

/-- 95_test_vectors.md 1.6 and 2.7. -/
theorem test_fx40_special :
    xpOf (exec (.fx40 0 1 2) (xs 0o17204000000000000000#60 0o00000000000000000000#60)) 0 = some (0o00000000000000000000#60, 0o1)
    ∧ xpOf (exec (.fx40 0 1 2) (xs 0o60573777777777777777#60 0o00000000000000000000#60)) 0 = some (0o77777777777777777777#60, 0o1)
    ∧ xpOf (exec (.fx40 0 1 2) (xs 0o37770000000000000000#60 0o00000000000000000000#60)) 0 = some (0o17770000000000000000#60, 0o4)
    ∧ xpOf (exec (.fx40 0 1 2) (xs 0o37770000000000000000#60 0o60573777777777777777#60)) 0 = some (0o40007777777777777777#60, 0o2) := by decide +kernel

/-- 95_test_vectors.md 1.6 and 2.7. -/
theorem test_rx41_round_products :
    xpOf (exec (.rx41 0 1 2) (xs 0o17216000000000000000#60 0o17216000000000000000#60)) 0 = some (0o17234400000000000000#60, 0o0)
    ∧ xpOf (exec (.rx41 0 1 2) (xs 0o17165252525252525252#60 0o17216000000000000000#60)) 0 = some (0o17177777777777777777#60, 0o0) := by decide +kernel

/-- 95_test_vectors.md 1.6 and 2.7. -/
theorem test_dx42_lower_products :
    xpOf (exec (.dx42 0 1 2) (xs 0o17214000000000000000#60 0o17216000000000000000#60)) 0 = some (0o16420000000000000000#60, 0o0)
    ∧ xpOf (exec (.dx42 0 1 2) (xs 0o20000000000000000005#60 0o20000000000000000003#60)) 0 = some (0o20000000000000000017#60, 0o0)
    ∧ xpOf (exec (.dx42 0 1 2) (xs 0o20000000000000000005#60 0o57777777777777777770#60)) 0 = some (0o57777777777777777734#60, 0o0) := by decide +kernel

/-- 95_test_vectors.md 1.6 and 2.8. -/
theorem test_fx44_quotients :
    xpOf (exec (.fx44 0 1 2) (xs 0o17204000000000000000#60 0o17216000000000000000#60)) 0 = some (0o17165252525252525252#60, 0o0)
    ∧ xpOf (exec (.fx44 0 1 2) (xs 0o60573777777777777777#60 0o17216000000000000000#60)) 0 = some (0o60612525252525252525#60, 0o0)
    ∧ xpOf (exec (.fx44 0 1 2) (xs 0o20000000000000000005#60 0o20000000000000000003#60)) 0 = some (0o17206525252525252525#60, 0o0)
    ∧ xpOf (exec (.fx44 0 1 2) (xs 0o20000000000000000004#60 0o20000000000000000002#60)) 0 = some (0o17770000000000000000#60, 0o4)
    ∧ xpOf (exec (.fx44 0 1 2) (xs 0o37000222000000000000#60 0o16000022000000000000#60)) 0 = some (0o37770000000000000000#60, 0o2) := by decide +kernel

/-- 95_test_vectors.md 1.6 and 2.8. -/
theorem test_fx44_special :
    xpOf (exec (.fx44 0 1 2) (xs 0o17204000000000000000#60 0o00000000000000000000#60)) 0 = some (0o37770000000000000000#60, 0o2)
    ∧ xpOf (exec (.fx44 0 1 2) (xs 0o60573777777777777777#60 0o00000000000000000000#60)) 0 = some (0o40007777777777777777#60, 0o2)
    ∧ xpOf (exec (.fx44 0 1 2) (xs 0o00000000000000000000#60 0o00000000000000000000#60)) 0 = some (0o17770000000000000000#60, 0o4)
    ∧ xpOf (exec (.fx44 0 1 2) (xs 0o17204000000000000000#60 0o37770000000000000000#60)) 0 = some (0o00000000000000000000#60, 0o1)
    ∧ xpOf (exec (.fx44 0 1 2) (xs 0o37764000000000000000#60 0o17174000000000000000#60)) 0 = some (0o37774000000000000000#60, 0o0) := by decide +kernel

/-- 95_test_vectors.md 1.6 and 2.8. -/
theorem test_rx45_round_quotients :
    xpOf (exec (.rx45 0 1 2) (xs 0o17204000000000000000#60 0o17216000000000000000#60)) 0 = some (0o17165252525252525253#60, 0o0)
    ∧ xpOf (exec (.rx45 0 1 2) (xs 0o20277223222071755360#60 0o13474255611503647225#60)) 0 = some (0o24006557350506132701#60, 0o0) := by decide +kernel

/-- 95_test_vectors.md 2.9. -/
theorem test_ix36_sums :
    xOf (exec (.ix36 0 1 2) (xs 0o00000000000000000005#60 0o77777777777777777772#60)) 0 = some 0o00000000000000000000#60
    ∧ xOf (exec (.ix36 0 1 2) (xs 0o77777777777777777777#60 0o77777777777777777777#60)) 0 = some 0o77777777777777777777#60
    ∧ xOf (exec (.ix36 0 1 2) (xs 0o00000000000000000000#60 0o77777777777777777777#60)) 0 = some 0o00000000000000000000#60
    ∧ xOf (exec (.ix36 0 1 2) (xs 0o40000000000000000000#60 0o40000000000000000000#60)) 0 = some 0o00000000000000000001#60 := by decide +kernel

/-- 95_test_vectors.md 2.9. -/
theorem test_ix37_differences :
    xOf (exec (.ix37 0 1 2) (xs 0o00000000000000000003#60 0o00000000000000000005#60)) 0 = some 0o77777777777777777775#60
    ∧ xOf (exec (.ix37 0 1 2) (xs 0o77777777777777777777#60 0o00000000000000000000#60)) 0 = some 0o77777777777777777777#60
    ∧ xOf (exec (.ix37 0 1 2) (xs 0o77777777777777777777#60 0o77777777777777777777#60)) 0 = some 0o00000000000000000000#60
    ∧ xOf (exec (.ix37 0 1 2) (xs 0o37777777777777777777#60 0o00000000000000000001#60)) 0 = some 0o37777777777777777776#60 := by decide +kernel

/-- 95_test_vectors.md 2.9. -/
theorem test_cx47_counts :
    xOf (exec (.cx47 0 1) (xs 0o23236600000000000111#60 0)) 0 = some 0o15
    ∧ xOf (exec (.cx47 0 1) (xs 0o77777777777777777777#60 0)) 0 = some 0o74 := by decide +kernel

/-- 95_test_vectors.md 2.10. -/
theorem test_sb60_vectors :
    bOf (exec (.sb60 1 2 0o777677) incs) 1 = some 0 := by decide +kernel

/-- 95_test_vectors.md 2.10. -/
theorem test_sb61_vectors :
    bOf (exec (.sb61 1 4 0o777777) incs) 1 = some 0o777777
    ∧ bOf (exec (.sb61 0 3 5) incs) 0 = some 0 := by decide +kernel

/-- 95_test_vectors.md 2.10. -/
theorem test_sb62_vectors :
    bOf (exec (.sb62 1 4 5) incs) 1 = some 3 := by decide +kernel

/-- 95_test_vectors.md 2.10. -/
theorem test_sb63_vectors :
    bOf (exec (.sb63 1 4 3) incs) 1 = some 0o16 := by decide +kernel

/-- 95_test_vectors.md 2.10. -/
theorem test_sb64_vectors :
    bOf (exec (.sb64 1 2 3) incs) 1 = some 0o120 := by decide +kernel

/-- 95_test_vectors.md 2.10. -/
theorem test_sb65_vectors :
    bOf (exec (.sb65 1 2 3) incs) 1 = some 0o60 := by decide +kernel

/-- 95_test_vectors.md 2.10. -/
theorem test_sb66_vectors :
    bOf (exec (.sb66 1 4 4) incs) 1 = some 0o777777 := by decide +kernel

/-- 95_test_vectors.md 2.10. -/
theorem test_sb67_vectors :
    bOf (exec (.sb67 1 0 3) incs) 1 = some 0o777757 := by decide +kernel

/-- 95_test_vectors.md 2.10. -/
theorem test_sx70_vectors :
    xOf (exec (.sx70 1 5 0) incs) 1 = some 0o77777777777777400000#60 := by decide +kernel

/-- 95_test_vectors.md 2.10. -/
theorem test_sx71_vectors :
    xOf (exec (.sx71 1 0 0o777777) incs) 1 = some 0
    ∧ xOf (exec (.sx71 1 0 0o400000) incs) 1 = some 0o77777777777777400000#60 := by decide +kernel

/-- 95_test_vectors.md 2.10. -/
theorem test_sx72_vectors :
    xOf (exec (.sx72 1 4 1) incs) 1 = some 0o77777777777777777776#60 := by decide +kernel

/-- 95_test_vectors.md 2.10. -/
theorem test_sx73_vectors :
    xOf (exec (.sx73 1 4 3) incs) 1 = some 0o16 := by decide +kernel

/-- 95_test_vectors.md 2.10. -/
theorem test_sx74_vectors :
    xOf (exec (.sx74 1 2 3) incs) 1 = some 0o120 := by decide +kernel

/-- 95_test_vectors.md 2.10. -/
theorem test_sx75_vectors :
    xOf (exec (.sx75 1 2 3) incs) 1 = some 0o60 := by decide +kernel

/-- 95_test_vectors.md 2.10. -/
theorem test_sx76_vectors :
    xOf (exec (.sx76 1 4 4) incs) 1 = some 0o77777777777777777777#60 := by decide +kernel

/-- 95_test_vectors.md 2.10. -/
theorem test_sx77_vectors :
    xOf (exec (.sx77 1 0 3) incs) 1 = some 0o77777777777777777757#60 := by decide +kernel

/-- 95_test_vectors.md 2.10. -/
theorem test_sa50_reads :
    axOf (exec (.sa50 1 2 0o50) incs) 1 = some (0o150, 0o11112222333344445555#60)
    ∧ axOf (exec (.sa50 1 2 0o777776) incs) 1 = some (0o77, 0o07070707070707070707#60)
    ∧ aOf (exec (.sa50 0 2 0o50) incs) 0 = some 0o150 := by decide +kernel

/-- 95_test_vectors.md 2.10. -/
theorem test_sa50_out_of_range :
    axOf (exec (.sa50 1 2 0o777676) incs) 1 = some (0o777776, 0o17)
    ∧ psdHasOf (exec (.sa50 1 2 0o777676) incs) .scmDirectRange = some true
    ∧ axOf (exec (.sa50 1 2 0o700) incs) 1 = some (0o1000, 0o52525252525252525252#60) := by decide +kernel

/-- 95_test_vectors.md 2.10. -/
theorem test_sa51_reads :
    axOf (exec (.sa51 1 3 0o100) incs) 1 = some (0o120, 0o120) := by decide +kernel

/-- 95_test_vectors.md 2.10. -/
theorem test_sa52_reads :
    axOf (exec (.sa52 1 1 0o150) incs) 1 = some (0o150, 0o11112222333344445555#60) := by decide +kernel

/-- 95_test_vectors.md 2.10. -/
theorem test_sa53_reads :
    axOf (exec (.sa53 3 1 3) incs) 3 = some (0o20, 0) := by decide +kernel

/-- 95_test_vectors.md 2.10. -/
theorem test_sa54_reads :
    axOf (exec (.sa54 5 2 3) incs) 5 = some (0o120, 0o120) := by decide +kernel

/-- 95_test_vectors.md 2.10. -/
theorem test_sa55_reads :
    aOf (exec (.sa55 1 2 3) incs) 1 = some 0o60 := by decide +kernel

/-- 95_test_vectors.md 2.10. -/
theorem test_sa56_writes :
    aOf (exec (.sa56 6 3 3) incs) 6 = some 0o40
    ∧ scmOf (exec (.sa56 6 3 3) incs) 0o10040 = some 0o66660000000000000006#60 := by decide +kernel

/-- 95_test_vectors.md 2.10. -/
theorem test_sa57_writes :
    aOf (exec (.sa57 7 3 3) incs) 7 = some 0
    ∧ scmOf (exec (.sa57 7 3 3) incs) 0o10000 = some 0o70000000000000000007#60 := by decide +kernel

/-- 95_test_vectors.md 2.11. -/
theorem test_eq04_vectors :
    flowOf (exec (.eq04 1 2 0o300) (b2 5 5)) = some (.jump 0o300)
    ∧ flowOf (exec (.eq04 1 2 0o300) (b2 3 5)) = some .seq
    ∧ flowOf (exec (.eq04 1 2 0o300) (b2 0 0o777777)) = some .seq
    ∧ flowOf (exec (.eq04 1 2 0o300) (b2 0o777777 0)) = some .seq
    ∧ flowOf (exec (.eq04 1 2 0o300) (b2 0o400000 0o377777)) = some .seq
    ∧ flowOf (exec (.eq04 1 2 0o300) (b2 0o777777 0o777777)) = some (.jump 0o300) := by decide +kernel

/-- 95_test_vectors.md 2.11. -/
theorem test_ne05_vectors :
    flowOf (exec (.ne05 1 2 0o300) (b2 5 5)) = some .seq
    ∧ flowOf (exec (.ne05 1 2 0o300) (b2 3 5)) = some (.jump 0o300)
    ∧ flowOf (exec (.ne05 1 2 0o300) (b2 0 0o777777)) = some (.jump 0o300)
    ∧ flowOf (exec (.ne05 1 2 0o300) (b2 0o777777 0)) = some (.jump 0o300)
    ∧ flowOf (exec (.ne05 1 2 0o300) (b2 0o400000 0o377777)) = some (.jump 0o300)
    ∧ flowOf (exec (.ne05 1 2 0o300) (b2 0o777777 0o777777)) = some .seq := by decide +kernel

/-- 95_test_vectors.md 2.11. -/
theorem test_ge06_vectors :
    flowOf (exec (.ge06 1 2 0o300) (b2 5 5)) = some (.jump 0o300)
    ∧ flowOf (exec (.ge06 1 2 0o300) (b2 3 5)) = some .seq
    ∧ flowOf (exec (.ge06 1 2 0o300) (b2 0 0o777777)) = some (.jump 0o300)
    ∧ flowOf (exec (.ge06 1 2 0o300) (b2 0o777777 0)) = some .seq
    ∧ flowOf (exec (.ge06 1 2 0o300) (b2 0o400000 0o377777)) = some .seq
    ∧ flowOf (exec (.ge06 1 2 0o300) (b2 0o777777 0o777777)) = some (.jump 0o300) := by decide +kernel

/-- 95_test_vectors.md 2.11. -/
theorem test_lt07_vectors :
    flowOf (exec (.lt07 1 2 0o300) (b2 5 5)) = some .seq
    ∧ flowOf (exec (.lt07 1 2 0o300) (b2 3 5)) = some (.jump 0o300)
    ∧ flowOf (exec (.lt07 1 2 0o300) (b2 0 0o777777)) = some .seq
    ∧ flowOf (exec (.lt07 1 2 0o300) (b2 0o777777 0)) = some (.jump 0o300)
    ∧ flowOf (exec (.lt07 1 2 0o300) (b2 0o400000 0o377777)) = some (.jump 0o300)
    ∧ flowOf (exec (.lt07 1 2 0o300) (b2 0o777777 0o777777)) = some .seq := by decide +kernel

/-- 95_test_vectors.md 2.11. -/
theorem test_zr030_vectors :
    flowOf (exec (.zr030 1 0o300) (xs 0o00000000000000000000#60 0)) = some (.jump 0o300)
    ∧ flowOf (exec (.zr030 1 0o300) (xs 0o77777777777777777777#60 0)) = some (.jump 0o300)
    ∧ flowOf (exec (.zr030 1 0o300) (xs 0o77777777777777777776#60 0)) = some .seq
    ∧ flowOf (exec (.zr030 1 0o300) (xs 0o37770000000000000000#60 0)) = some .seq
    ∧ flowOf (exec (.zr030 1 0o300) (xs 0o60007777777777777777#60 0)) = some .seq
    ∧ flowOf (exec (.zr030 1 0o300) (xs 0o17777777777777777777#60 0)) = some .seq
    ∧ flowOf (exec (.zr030 1 0o300) (xs 0o37767777777777777777#60 0)) = some .seq := by decide +kernel

/-- 95_test_vectors.md 2.11. -/
theorem test_nz031_vectors :
    flowOf (exec (.nz031 1 0o300) (xs 0o00000000000000000000#60 0)) = some .seq
    ∧ flowOf (exec (.nz031 1 0o300) (xs 0o77777777777777777777#60 0)) = some .seq
    ∧ flowOf (exec (.nz031 1 0o300) (xs 0o77777777777777777776#60 0)) = some (.jump 0o300)
    ∧ flowOf (exec (.nz031 1 0o300) (xs 0o37770000000000000000#60 0)) = some (.jump 0o300)
    ∧ flowOf (exec (.nz031 1 0o300) (xs 0o60007777777777777777#60 0)) = some (.jump 0o300)
    ∧ flowOf (exec (.nz031 1 0o300) (xs 0o17777777777777777777#60 0)) = some (.jump 0o300)
    ∧ flowOf (exec (.nz031 1 0o300) (xs 0o37767777777777777777#60 0)) = some (.jump 0o300) := by decide +kernel

/-- 95_test_vectors.md 2.11. -/
theorem test_pl032_vectors :
    flowOf (exec (.pl032 1 0o300) (xs 0o00000000000000000000#60 0)) = some (.jump 0o300)
    ∧ flowOf (exec (.pl032 1 0o300) (xs 0o77777777777777777777#60 0)) = some .seq
    ∧ flowOf (exec (.pl032 1 0o300) (xs 0o77777777777777777776#60 0)) = some .seq
    ∧ flowOf (exec (.pl032 1 0o300) (xs 0o37770000000000000000#60 0)) = some (.jump 0o300)
    ∧ flowOf (exec (.pl032 1 0o300) (xs 0o60007777777777777777#60 0)) = some .seq
    ∧ flowOf (exec (.pl032 1 0o300) (xs 0o17777777777777777777#60 0)) = some (.jump 0o300)
    ∧ flowOf (exec (.pl032 1 0o300) (xs 0o37767777777777777777#60 0)) = some (.jump 0o300) := by decide +kernel

/-- 95_test_vectors.md 2.11. -/
theorem test_ng033_vectors :
    flowOf (exec (.ng033 1 0o300) (xs 0o00000000000000000000#60 0)) = some .seq
    ∧ flowOf (exec (.ng033 1 0o300) (xs 0o77777777777777777777#60 0)) = some (.jump 0o300)
    ∧ flowOf (exec (.ng033 1 0o300) (xs 0o77777777777777777776#60 0)) = some (.jump 0o300)
    ∧ flowOf (exec (.ng033 1 0o300) (xs 0o37770000000000000000#60 0)) = some .seq
    ∧ flowOf (exec (.ng033 1 0o300) (xs 0o60007777777777777777#60 0)) = some (.jump 0o300)
    ∧ flowOf (exec (.ng033 1 0o300) (xs 0o17777777777777777777#60 0)) = some .seq
    ∧ flowOf (exec (.ng033 1 0o300) (xs 0o37767777777777777777#60 0)) = some .seq := by decide +kernel

/-- 95_test_vectors.md 2.11. -/
theorem test_ir034_vectors :
    flowOf (exec (.ir034 1 0o300) (xs 0o00000000000000000000#60 0)) = some (.jump 0o300)
    ∧ flowOf (exec (.ir034 1 0o300) (xs 0o77777777777777777777#60 0)) = some (.jump 0o300)
    ∧ flowOf (exec (.ir034 1 0o300) (xs 0o77777777777777777776#60 0)) = some (.jump 0o300)
    ∧ flowOf (exec (.ir034 1 0o300) (xs 0o37770000000000000000#60 0)) = some .seq
    ∧ flowOf (exec (.ir034 1 0o300) (xs 0o60007777777777777777#60 0)) = some .seq
    ∧ flowOf (exec (.ir034 1 0o300) (xs 0o17777777777777777777#60 0)) = some .seq
    ∧ flowOf (exec (.ir034 1 0o300) (xs 0o37767777777777777777#60 0)) = some (.jump 0o300) := by decide +kernel

/-- 95_test_vectors.md 2.11. -/
theorem test_or035_vectors :
    flowOf (exec (.or035 1 0o300) (xs 0o00000000000000000000#60 0)) = some .seq
    ∧ flowOf (exec (.or035 1 0o300) (xs 0o77777777777777777777#60 0)) = some .seq
    ∧ flowOf (exec (.or035 1 0o300) (xs 0o77777777777777777776#60 0)) = some .seq
    ∧ flowOf (exec (.or035 1 0o300) (xs 0o37770000000000000000#60 0)) = some (.jump 0o300)
    ∧ flowOf (exec (.or035 1 0o300) (xs 0o60007777777777777777#60 0)) = some (.jump 0o300)
    ∧ flowOf (exec (.or035 1 0o300) (xs 0o17777777777777777777#60 0)) = some (.jump 0o300)
    ∧ flowOf (exec (.or035 1 0o300) (xs 0o37767777777777777777#60 0)) = some .seq := by decide +kernel

/-- 95_test_vectors.md 2.11. -/
theorem test_df036_vectors :
    flowOf (exec (.df036 1 0o300) (xs 0o00000000000000000000#60 0)) = some (.jump 0o300)
    ∧ flowOf (exec (.df036 1 0o300) (xs 0o77777777777777777777#60 0)) = some (.jump 0o300)
    ∧ flowOf (exec (.df036 1 0o300) (xs 0o77777777777777777776#60 0)) = some (.jump 0o300)
    ∧ flowOf (exec (.df036 1 0o300) (xs 0o37770000000000000000#60 0)) = some (.jump 0o300)
    ∧ flowOf (exec (.df036 1 0o300) (xs 0o60007777777777777777#60 0)) = some .seq
    ∧ flowOf (exec (.df036 1 0o300) (xs 0o17777777777777777777#60 0)) = some .seq
    ∧ flowOf (exec (.df036 1 0o300) (xs 0o37767777777777777777#60 0)) = some (.jump 0o300) := by decide +kernel

/-- 95_test_vectors.md 2.11. -/
theorem test_id037_vectors :
    flowOf (exec (.id037 1 0o300) (xs 0o00000000000000000000#60 0)) = some .seq
    ∧ flowOf (exec (.id037 1 0o300) (xs 0o77777777777777777777#60 0)) = some .seq
    ∧ flowOf (exec (.id037 1 0o300) (xs 0o77777777777777777776#60 0)) = some .seq
    ∧ flowOf (exec (.id037 1 0o300) (xs 0o37770000000000000000#60 0)) = some .seq
    ∧ flowOf (exec (.id037 1 0o300) (xs 0o60007777777777777777#60 0)) = some (.jump 0o300)
    ∧ flowOf (exec (.id037 1 0o300) (xs 0o17777777777777777777#60 0)) = some (.jump 0o300)
    ∧ flowOf (exec (.id037 1 0o300) (xs 0o37767777777777777777#60 0)) = some .seq := by decide +kernel

/-- 95_test_vectors.md 2.11. -/
theorem test_jp02_vectors :
    flowOf (exec (.jp02 1 0o300) (b2 0o10 0)) = some (.jump 0o310)
    ∧ flowOf (exec (.jp02 1 0o302) (b2 0o777776 0)) = some (.jump 0o301)
    ∧ flowOf (exec (.jp02 1 0o300) (b2 0o777777 0)) = some (.jump 0o300)
    ∧ flowOf (exec (.jp02 1 0o77) (b2 0o777700 0)) = some (.jump 0o0) := by decide +kernel

/-- 95_test_vectors.md 2.11. -/
theorem test_rj010_stores :
    scmOf (exec (.rj010 0o300) incs) 0o10300 = some 0o04000001010000000000#60
    ∧ flowOf (exec (.rj010 0o300) incs) = some (.jump 0o301) := by decide +kernel

/-- 95_test_vectors.md 2.12: three words; then the first of them. -/
theorem test_rl011_copies :
    phaseOf (exec (.rl011 2 0) blk) = some (.copying ⟨true, 0o100, 0o500, 3⟩)
    ∧ phaseOf (exec (.rl011 2 0o777774) blk) = some .inWord
    ∧ scmOf (step (copying true 3)) 0o10500 = some 0o1000 ∧ scmOf (step (copying true 3)) 0o10501 = some 0o2001
    ∧ phaseOf (step (copying true 3)) = some (.copying ⟨true, 0o101, 0o501, 2⟩) := by decide +kernel

/-- 95_test_vectors.md 2.12. -/
theorem test_rl011_out_of_range :
    psdHasOf (exec (.rl011 0 0o777776) blk) .scmBlockRange = some true
    ∧ psdHasOf (exec (.rl011 0 0o777776) blk) .lcmBlockRange = some true
    ∧ scmOf (exec (.rl011 0 0o777776) blk) 0o10500 = some 0o2000 := by decide +kernel

/-- 95_test_vectors.md 2.12: three words; then the first of them; then the step after the last. -/
theorem test_wl012_copies :
    phaseOf (exec (.wl012 2 0) blk) = some (.copying ⟨false, 0o100, 0o500, 3⟩)
    ∧ lcmOf (step (copying false 3)) 0o40100 = some 0o2000 ∧ lcmOf (step (copying false 3)) 0o40101 = some 0o1001
    ∧ phaseOf (step (copying false 0)) = some .inWord := by decide +kernel

/-- 95_test_vectors.md 2.12. -/
theorem test_rx014_reads :
    xOf (exec (.rx014 1 0) blk) 1 = some 0o1000
    ∧ xOf (exec (.rx014 0 0) blk) 0 = some 0o1000 := by decide +kernel

/-- 95_test_vectors.md 2.12. -/
theorem test_wx015_writes :
    lcmOf (exec (.wx015 3 0) blk) 0o40100 = some 0o33
    ∧ psdHasOf (exec (.wx015 3 4) blk) .lcmDirectRange = some true
    ∧ lcmOf (exec (.wx015 3 4) blk) 0o42000 = some 0 := by decide +kernel

/-- 95_test_vectors.md 2.13. -/
theorem test_ib016_clock_and_channel :
    bOf (exec (.ib016 1 0) chs) 1 = some 0o400007
    ∧ bOf (exec (.ib016 1 2) chs) 1 = some 0o57 := by decide +kernel

/-- 95_test_vectors.md 2.13. -/
theorem test_ob017_channel_and_zero :
    bOf (exec (.ob017 1 0) chs) 1 = some 0
    ∧ bOf (exec (.ob017 1 2) chs) 1 = some 0o17 := by decide +kernel

/-- 95_test_vectors.md 2.13. -/
theorem test_ri0160_monitor_only :
    inOf (exec (.ri0160 2) (monitor chs)) 0o12 = some (0, 0)
    ∧ inOf (exec (.ri0160 2) chs) 0o12 = some (0o57, 3) := by decide +kernel

/-- 40_cpu_monitor_lcm_io.md R161. -/
theorem test_ro0170_monitor_only :
    outOf (exec (.ro0170 2) (monitor chs)) 0o12 = some (0, 0, true, true, 1)
    ∧ outOf (exec (.ro0170 2) chs) 0o12 = some (0o17, 2, false, false, 0) := by decide +kernel

/-- 95_test_vectors.md 3.1. -/
theorem test_lmn11_vectors :
    apOf (exec (.lmn11 0o25) (pp 0o123456 [])) = some (0o123473, 0o1001) := by decide +kernel

/-- 95_test_vectors.md 3.1. -/
theorem test_lpn12_vectors :
    apOf (exec (.lpn12 0o25) (pp 0o123456 [])) = some (0o000004, 0o1001) := by decide +kernel

/-- 95_test_vectors.md 3.1. -/
theorem test_scn13_vectors :
    apOf (exec (.scn13 0o25) (pp 0o123456 [])) = some (0o123452, 0o1001) := by decide +kernel

/-- 95_test_vectors.md 3.1. -/
theorem test_ldn14_vectors :
    apOf (exec (.ldn14 0o77) (pp 0o777777 [])) = some (0o000077, 0o1001) := by decide +kernel

/-- 95_test_vectors.md 3.1. -/
theorem test_lcn15_vectors :
    apOf (exec (.lcn15 0o77) (pp 0o0 [])) = some (0o777700, 0o1001) := by decide +kernel

/-- 95_test_vectors.md 3.1. -/
theorem test_adn16_vectors :
    apOf (exec (.adn16 1) (pp 0o777777 [])) = some (0o000001, 0o1001)
    ∧ apOf (exec (.adn16 1) (pp 0o777776 [])) = some (0o000000, 0o1001) := by decide +kernel

/-- 95_test_vectors.md 3.1. -/
theorem test_sbn17_vectors :
    apOf (exec (.sbn17 1) (pp 0o000000 [])) = some (0o777776, 0o1001)
    ∧ apOf (exec (.sbn17 0) (pp 0o777777 [])) = some (0o777777, 0o1001) := by decide +kernel

/-- 95_test_vectors.md 3.1. -/
theorem test_ldc20_vectors :
    apOf (exec (.ldc20 0o77 0o7777) (pp 0o0 [])) = some (0o777777, 0o1002) := by decide +kernel

/-- 95_test_vectors.md 3.1. -/
theorem test_adc21_vectors :
    apOf (exec (.adc21 0o77 0o7776) (pp 0o000001 [])) = some (0o000000, 0o1002) := by decide +kernel

/-- 95_test_vectors.md 3.1. -/
theorem test_lpc22_vectors :
    apOf (exec (.lpc22 0o07 0o7000) (pp 0o123456 [])) = some (0o023000, 0o1002) := by decide +kernel

/-- 95_test_vectors.md 3.1. -/
theorem test_lmc23_vectors :
    apOf (exec (.lmc23 0o77 0o7777) (pp 0o123456 [])) = some (0o654321, 0o1002) := by decide +kernel

/-- 95_test_vectors.md 3.1. -/
theorem test_shn10_vectors :
    apOf (exec (.shn10 1) (pp 0o400001 [])) = some (0o000003, 0o1001)
    ∧ apOf (exec (.shn10 0o76) (pp 0o400001 [])) = some (0o200000, 0o1001)
    ∧ apOf (exec (.shn10 0o71) (pp 0o123456 [])) = some (0o001234, 0o1001)
    ∧ apOf (exec (.shn10 0o22) (pp 0o123456 [])) = some (0o123456, 0o1001)
    ∧ apOf (exec (.shn10 0o40) (pp 0o777777 [])) = some (0o0, 0o1001) := by decide +kernel

/-- 95_test_vectors.md 1.5 and 3.2, and the examples of 45_ppu_instructions.md. -/
theorem test_ldd30_vectors :
    apOf (exec (.ldd30 0o25) (pp 0o0 [(0o25, 0o150), (0o100, 0o1111), (0o150, 0o7776), (0o250, 0o1234)])) = some (0o000150, 0o1001) := by decide +kernel

/-- 95_test_vectors.md 1.5 and 3.2, and the examples of 45_ppu_instructions.md. -/
theorem test_ldi40_vectors :
    apOf (exec (.ldi40 0o25) (pp 0o0 [(0o25, 0o150), (0o100, 0o1111), (0o150, 0o7776), (0o250, 0o1234)])) = some (0o007776, 0o1001) := by decide +kernel

/-- 95_test_vectors.md 1.5 and 3.2, and the examples of 45_ppu_instructions.md. -/
theorem test_ldm50_vectors :
    apOf (exec (.ldm50 0o25 0o100) (pp 0o0 [(0o25, 0o150), (0o100, 0o1111), (0o150, 0o7776), (0o250, 0o1234)])) = some (0o001234, 0o1002)
    ∧ apOf (exec (.ldm50 0 0o7777) (pp 0o0 [(0o7777, 0o4321)])) = some (0o004321, 0o1002) := by decide +kernel

/-- 95_test_vectors.md 1.5 and 3.2, and the examples of 45_ppu_instructions.md. -/
theorem test_add31_vectors :
    apOf (exec (.add31 0o25) (pp 0o777000 [(0o25, 0o7777)])) = some (0o007000, 0o1001) := by decide +kernel

/-- 95_test_vectors.md 1.5 and 3.2, and the examples of 45_ppu_instructions.md. -/
theorem test_sbd32_vectors :
    apOf (exec (.sbd32 0o25) (pp 0o000001 [(0o25, 2)])) = some (0o777776, 0o1001) := by decide +kernel

/-- 95_test_vectors.md 1.5 and 3.2, and the examples of 45_ppu_instructions.md. -/
theorem test_lmd33_vectors :
    apOf (exec (.lmd33 0o25) (pp 0o770077 [(0o25, 0o7777)])) = some (0o777700, 0o1001) := by decide +kernel

/-- 95_test_vectors.md 1.5 and 3.2, and the examples of 45_ppu_instructions.md. -/
theorem test_adi41_vectors :
    apOf (exec (.adi41 0o25) (pp 0o000002 [(0o25, 0o150), (0o100, 0o1111), (0o150, 0o7776), (0o250, 0o1234)])) = some (0o010000, 0o1001) := by decide +kernel

/-- 95_test_vectors.md 1.5 and 3.2, and the examples of 45_ppu_instructions.md. -/
theorem test_sbi42_vectors :
    apOf (exec (.sbi42 0o25) (pp 0o007776 [(0o25, 0o150), (0o100, 0o1111), (0o150, 0o7776), (0o250, 0o1234)])) = some (0o000000, 0o1001) := by decide +kernel

/-- 95_test_vectors.md 1.5 and 3.2, and the examples of 45_ppu_instructions.md. -/
theorem test_lmi43_vectors :
    apOf (exec (.lmi43 0o25) (pp 0o000001 [(0o25, 0o150), (0o100, 0o1111), (0o150, 0o7776), (0o250, 0o1234)])) = some (0o007777, 0o1001) := by decide +kernel

/-- 95_test_vectors.md 1.5 and 3.2, and the examples of 45_ppu_instructions.md. -/
theorem test_adm51_vectors :
    apOf (exec (.adm51 0o25 0o100) (pp 0o000001 [(0o25, 0o150), (0o100, 0o1111), (0o150, 0o7776), (0o250, 0o1234)])) = some (0o001235, 0o1002) := by decide +kernel

/-- 95_test_vectors.md 1.5 and 3.2, and the examples of 45_ppu_instructions.md. -/
theorem test_sbm52_vectors :
    apOf (exec (.sbm52 0o25 0o100) (pp 0o001234 [(0o25, 0o150), (0o100, 0o1111), (0o150, 0o7776), (0o250, 0o1234)])) = some (0o000000, 0o1002) := by decide +kernel

/-- 95_test_vectors.md 1.5 and 3.2, and the examples of 45_ppu_instructions.md. -/
theorem test_lmm53_vectors :
    apOf (exec (.lmm53 0o25 0o100) (pp 0o001234 [(0o25, 0o150), (0o100, 0o1111), (0o150, 0o7776), (0o250, 0o1234)])) = some (0o000000, 0o1002) := by decide +kernel

/-- 95_test_vectors.md 1.5 and 3.2, and the examples of 45_ppu_instructions.md. -/
theorem test_std34_vectors :
    amOf (exec (.std34 0o25) (pp 0o251234 [(0o25, 0o7777)])) 0o25 = some (0o251234, 0o1234) := by decide +kernel

/-- 95_test_vectors.md 1.5 and 3.2, and the examples of 45_ppu_instructions.md. -/
theorem test_rad35_vectors :
    amOf (exec (.rad35 0o25) (pp 0o000001 [(0o25, 0o7777)])) 0o25 = some (0o010000, 0o0)
    ∧ amOf (exec (.rad35 0o25) (pp 0o777776 [(0o25, 1)])) 0o25 = some (0o0, 0o0) := by decide +kernel

/-- 95_test_vectors.md 1.5 and 3.2, and the examples of 45_ppu_instructions.md. -/
theorem test_aod36_vectors :
    amOf (exec (.aod36 0o25) (pp 0o0 [(0o25, 0o7777)])) 0o25 = some (0o010000, 0o0) := by decide +kernel

/-- 95_test_vectors.md 1.5 and 3.2, and the examples of 45_ppu_instructions.md. -/
theorem test_sod37_vectors :
    amOf (exec (.sod37 0o25) (pp 0o0 [])) 0o25 = some (0o777776, 0o7776) := by decide +kernel

/-- 95_test_vectors.md 1.5 and 3.2, and the examples of 45_ppu_instructions.md. -/
theorem test_sti44_vectors :
    amOf (exec (.sti44 0o25) (pp 0o654321 [(0o25, 0o150), (0o100, 0o1111), (0o150, 0o7776), (0o250, 0o1234)])) 0o150 = some (0o654321, 0o4321) := by decide +kernel

/-- 95_test_vectors.md 1.5 and 3.2, and the examples of 45_ppu_instructions.md. -/
theorem test_rai45_vectors :
    amOf (exec (.rai45 0o25) (pp 0o000002 [(0o25, 0o150), (0o100, 0o1111), (0o150, 0o7776), (0o250, 0o1234)])) 0o150 = some (0o010000, 0o0) := by decide +kernel

/-- 95_test_vectors.md 1.5 and 3.2, and the examples of 45_ppu_instructions.md. -/
theorem test_aoi46_vectors :
    amOf (exec (.aoi46 0o25) (pp 0o0 [(0o25, 0o150), (0o100, 0o1111), (0o150, 0o7776), (0o250, 0o1234)])) 0o150 = some (0o007777, 0o7777) := by decide +kernel

/-- 95_test_vectors.md 1.5 and 3.2, and the examples of 45_ppu_instructions.md. -/
theorem test_soi47_vectors :
    amOf (exec (.soi47 0o25) (pp 0o0 [(0o25, 0o150), (0o150, 1)])) 0o150 = some (0o0, 0o0) := by decide +kernel

/-- 95_test_vectors.md 1.5 and 3.2, and the examples of 45_ppu_instructions.md. -/
theorem test_stm54_vectors :
    amOf (exec (.stm54 0o25 0o100) (pp 0o251234 [(0o25, 0o150), (0o100, 0o1111), (0o150, 0o7776), (0o250, 0o1234)])) 0o250 = some (0o251234, 0o1234) := by decide +kernel

/-- 95_test_vectors.md 1.5 and 3.2, and the examples of 45_ppu_instructions.md. -/
theorem test_ram55_vectors :
    amOf (exec (.ram55 0o25 0o100) (pp 0o000001 [(0o25, 0o150), (0o100, 0o1111), (0o150, 0o7776), (0o250, 0o1234)])) 0o250 = some (0o001235, 0o1235) := by decide +kernel

/-- 95_test_vectors.md 1.5 and 3.2, and the examples of 45_ppu_instructions.md. -/
theorem test_aom56_vectors :
    amOf (exec (.aom56 0 0o300) (pp 0o0 [(0o300, 0o77)])) 0o300 = some (0o100, 0o100) := by decide +kernel

/-- 95_test_vectors.md 1.5 and 3.2, and the examples of 45_ppu_instructions.md. -/
theorem test_som57_vectors :
    amOf (exec (.som57 0 0o300) (pp 0o0 [(0o300, 1)])) 0o300 = some (0o0, 0o0) := by decide +kernel

/-- 95_test_vectors.md 3.3. -/
theorem test_ljm01_vectors :
    pOf (exec (.ljm01 0 0o1234) (ppAt 0o1000 0o0 [])) = some 0o1234
    ∧ pOf (exec (.ljm01 0o25 0o100) (ppAt 0o1000 0o0 [(0o25, 0o150), (0o100, 0o1111), (0o150, 0o7776), (0o250, 0o1234)])) = some 0o250 := by decide +kernel

/-- 95_test_vectors.md 3.3. -/
theorem test_rjm02_vectors :
    pOf (exec (.rjm02 0 0o500) (ppAt 0o100 0o0 [])) = some 0o501 := by decide +kernel

/-- 95_test_vectors.md 3.3. -/
theorem test_ujn03_vectors :
    pOf (exec (.ujn03 0o5) (ppAt 0o100 0o0 [])) = some 0o105
    ∧ pOf (exec (.ujn03 0o74) (ppAt 0o2 0o0 [])) = some 0o7776
    ∧ pOf (exec (.ujn03 0o77) (ppAt 0o100 0o0 [])) = some 0o100 := by decide +kernel

/-- 95_test_vectors.md 3.3. -/
theorem test_zjn04_vectors :
    pOf (exec (.zjn04 3) (ppAt 0o100 0o0 [])) = some 0o103
    ∧ pOf (exec (.zjn04 3) (ppAt 0o100 0o777777 [])) = some 0o101 := by decide +kernel

/-- 95_test_vectors.md 3.3. -/
theorem test_njn05_vectors :
    pOf (exec (.njn05 0o75) (ppAt 0o100 0o777777 [])) = some 0o76
    ∧ pOf (exec (.njn05 0o75) (ppAt 0o100 0o0 [])) = some 0o101 := by decide +kernel

/-- 95_test_vectors.md 3.3. -/
theorem test_pjn06_vectors :
    pOf (exec (.pjn06 4) (ppAt 0o100 0o0 [])) = some 0o104
    ∧ pOf (exec (.pjn06 4) (ppAt 0o100 0o777777 [])) = some 0o101 := by decide +kernel

/-- 95_test_vectors.md 3.3. -/
theorem test_mjn07_vectors :
    pOf (exec (.mjn07 4) (ppAt 0o100 0o400000 [])) = some 0o104
    ∧ pOf (exec (.mjn07 4) (ppAt 0o100 0o377777 [])) = some 0o101 := by decide +kernel

/-- 95_test_vectors.md 3.3. -/
theorem test_rjm02_stores :
    amOf (exec (.rjm02 0 0o500) (ppAt 0o100 0 [])) 0o500 = some (0, 0o102) := by decide +kernel

/-- 95_test_vectors.md 3.3. -/
theorem test_passes :
    pOf (exec .psn24 (ppAt 0o100 0 [])) = some 0o101
    ∧ pOf (exec .pass25 (ppAt 0o100 0 [])) = some 0o101
    ∧ pOf (exec .pass26 (ppAt 0o100 0 [])) = some 0o101
    ∧ pOf (exec .pass27 (ppAt 0o100 0 [])) = some 0o101
    ∧ pOf (exec .pass75 (ppAt 0o100 0 [])) = some 0o101
    ∧ pOf (exec .pass76 (ppAt 0o100 0 [])) = some 0o101 := by decide +kernel

/-- 95_test_vectors.md 3.3. -/
theorem test_error_stops :
    stopOf (exec .esn00 (ppAt 0o100 0 [])) = some (true, 0o100)
    ∧ stopOf (exec .esn77 (ppAt 0o100 0 [])) = some (true, 0o100) := by decide +kernel

/-- 95_test_vectors.md 3.4. -/
theorem test_fim60_vectors :
    pOf (exec (.fim60 (3 + 0o10) 0o200) (inwSet 3)) = some 0o200
    ∧ pOf (exec (.fim60 3 0o200) (ppAt 0o100 0 [])) = some 0o102 := by decide +kernel

/-- 95_test_vectors.md 3.4. -/
theorem test_eim61_vectors :
    pOf (exec (.eim61 (3 + 0o10) 0o200) (inwSet 3)) = some 0o102
    ∧ pOf (exec (.eim61 3 0o200) (ppAt 0o100 0 [])) = some 0o200 := by decide +kernel

/-- 95_test_vectors.md 3.4. -/
theorem test_irm62_vectors :
    pOf (exec (.irm62 (0 + 0o10) 0o300) (inrSet 0)) = some 0o300
    ∧ pOf (exec (.irm62 0 0o300) (ppAt 0o100 0 [])) = some 0o102 := by decide +kernel

/-- 95_test_vectors.md 3.4. -/
theorem test_nim63_vectors :
    pOf (exec (.nim63 (0 + 0o10) 0o300) (inrSet 0)) = some 0o102
    ∧ pOf (exec (.nim63 0 0o300) (ppAt 0o100 0 [])) = some 0o300 := by decide +kernel

/-- 95_test_vectors.md 3.4. -/
theorem test_fom64_vectors :
    pOf (exec (.fom64 (5 + 0o10) 0o200) (outwSet 5)) = some 0o200
    ∧ pOf (exec (.fom64 5 0o200) (ppAt 0o100 0 [])) = some 0o102 := by decide +kernel

/-- 95_test_vectors.md 3.4. -/
theorem test_eom65_vectors :
    pOf (exec (.eom65 (5 + 0o10) 0o200) (outwSet 5)) = some 0o102
    ∧ pOf (exec (.eom65 5 0o200) (ppAt 0o100 0 [])) = some 0o200 := by decide +kernel

/-- 95_test_vectors.md 3.4. -/
theorem test_orm66_vectors :
    pOf (exec (.orm66 (1 + 0o10) 0o200) (outrSet 1)) = some 0o200
    ∧ pOf (exec (.orm66 1 0o200) (ppAt 0o100 0 [])) = some 0o102 := by decide +kernel

/-- 95_test_vectors.md 3.4. -/
theorem test_nom67_vectors :
    pOf (exec (.nom67 (1 + 0o10) 0o200) (outrSet 1)) = some 0o102
    ∧ pOf (exec (.nom67 1 0o200) (ppAt 0o100 0 [])) = some 0o200 := by decide +kernel

/-- 95_test_vectors.md 3.4. -/
theorem test_ian70_samples :
    ioOf (exec (.ian70 2) inputReady) 2 = some (0o1234, 0o101, false, false, 1)
    ∧ pOf (exec (.ian70 2) (ppAt 0o100 0 [])) = some 0o100 := by decide +kernel

/-- 95_test_vectors.md 3.4. -/
theorem test_oan72_sends :
    outwOf (exec (.oan72 4) (ppAt 0o100 0o251234 [])) 4 = some (0o1234, true, 1, 0o101) := by decide +kernel

/-- 95_test_vectors.md 3.4. -/
theorem test_rfn74_sends :
    outrOf (exec (.rfn74 1) (ppAt 0o100 0 [])) 1 = some (true, 1, 0o101) := by decide +kernel

/-- 95_test_vectors.md 3.4. -/
theorem test_iam71_entry :
    iopOf (exec (.iam71 2 0o1000) (ppAt 0o100 3 [])) = some (.inBlock 2 true false, 0o1000, 0o100)
    ∧ iopOf (exec (.iam71 2 0o1000) (ppAt 0o100 0 [])) = some (.idle, 0o1000, 0o102)
    ∧ iopOf (exec (.iam71 2 0o1000) (ppAt 0o100 0o777777 [])) = none := by decide +kernel

/-- 95_test_vectors.md 3.4. -/
theorem test_oam73_entry :
    iopOf (exec (.oam73 3 0o500) (ppAt 0o100 2 [])) = some (.outBlock 3 false, 0o500, 0o100)
    ∧ iopOf (exec (.oam73 3 0o500) (ppAt 0o100 0 [])) = some (.idle, 0o500, 0o102) := by decide +kernel
/-! ### Exchange jumps -/

/-- An exchange at 10110 with the words `got` read and the words `put` written. -/
def exchange (who : Initiator) (p : Word18) (got : Vector (Option Word60) 16) (put : Vector Bool 16) : Exchange :=
  ⟨0o10110, p, who, got, put⟩

/-- No word read, and none written. -/
def begun (who : Initiator) (p : Word18) : Exchange :=
  exchange who p (Vector.replicate 16 none) (Vector.replicate 16 false)

/-- `incs` with both exit addresses at 10110: word 8 of the package there, X0, is the word at 10120. -/
def incsExit : State := { incs with cpu := { incs.cpu with eea := 0o10110, nea := 0o10110 } }

/-- `incs` inside the exchange `x`. -/
def exchanging (x : Exchange) : State := { incs with cpu := { incs.cpu with phase := .exchanging x } }

/-- 40_cpu_monitor_lcm_io.md R150: 00 begins an exchange at (EEA) that stores P + 1. -/
theorem test_es00_exchanges :
    phaseOf (exec .es00 incsExit) = some (.exchanging (begun .errorExit 0o101))
    ∧ psdHasOf (exec .es00 incsExit) .programRange = some true := by decide +kernel

/-- 40_cpu_monitor_lcm_io.md R155, R156: 01300 exchanges at (NEA), 013jK at (Bj) + K + (RAS). -/
theorem test_mj013_exchanges :
    phaseOf (exec .mj013Nea incsExit) = some (.exchanging (begun .exitInstruction 0o101))
    ∧ phaseOf (exec (.mj013Bk 3 0o70) incs) = some (.exchanging (begun .exitInstruction 0o101)) := by decide +kernel

/-- 60_exceptions.md R412: the read of a word changes no register, the load takes X0 from word 8. -/
theorem test_exchange_reads_and_loads :
    xOf (.next (exchangeRead (exchanging (begun .errorExit 5)) (begun .errorExit 5) 8)) 0 = some 0
    ∧ phaseOf (.next (exchangeRead (exchanging (begun .errorExit 5)) (begun .errorExit 5) 8))
        = some (.exchanging { begun .errorExit 5 with got := (Vector.replicate 16 none).set 8 (some 0o120) })
    ∧ xOf (step (exchanging (exchange .errorExit 5 (Vector.replicate 16 (some 0o120)) (Vector.replicate 16 true)))) 0
        = some 0o120 := by decide +kernel

/-- 60_exceptions.md R463: an exchange of the running program to its NEA ends the run; an interrupt parks it. -/
theorem test_run_ends :
    endsRun [0o10110] .running (begun .exitInstruction 5)
    ∧ ¬ endsRun [0o10110] (.parked 0o20) (begun .exitInstruction 5)
    ∧ ¬ endsRun [0o10110] .running (begun .ioInterrupt 5)
    ∧ Whereabouts.running.after (begun .ioInterrupt 5) = .parked 0o10110
    ∧ (Whereabouts.parked 0o10110).after (begun .exitInstruction 5) = .running := by
  unfold endsRun; decide +kernel

theorem returnJump_exits (s : State) (K : Word18) (h : returnFault s K = true) : (returnJump s K).cpu.flow = .exited := by
  simp only [returnJump, h, if_true, errorExit, exchangeJump_exits]

/-- 41_cpu_branch.md R171: 010 with K = FLS takes the error exit. -/
theorem test_rj010_out_of_range : flowOf (exec (.rj010 0o1000) incs) = some .exited :=
  congrArg some (returnJump_exits incs 0o1000 (by decide +kernel))

/-- 44_cpu_longadd_pass_popcount_increment.md R261: 46 changes nothing. -/
theorem test_no46_changes_nothing : exec .no46 incs = .next incs := rfl

/-! ### Channels and cables -/

/-- Word Requests of input side 10 and output side 2. -/
def twoRequests : State :=
  { State.reset with
    mux := (State.reset.mux.set 10 ⟨{ MuxIn.reset with wordReq := true }, MuxOut.reset⟩).set 2
      ⟨MuxIn.reset, { MuxOut.reset with wordReq := true }⟩ }

/-- 20_memory.md R84: received at once the lowest channel comes first; received before, the higher one does. -/
theorem test_scm_serves_lowest_channel :
    servedRequest (scmReceive twoRequests false none) = some (.mux 2 false)
    ∧ servedRequest (scmReceive { twoRequests with scmQueue := [.mux 10 true] } false none) = some (.mux 10 true) := by
  decide +kernel

/-- `twoRequests` with the CPU in the middle of a word, at an instruction of this word. -/
def asking (ins : Word60) : State :=
  { twoRequests with cpu := { incs.cpu with ciw := ins }, mcuOut := [(5, 7)] }

/-- 20_memory.md R84: an Increment reference and a Return Jump go before the channels, a block copy after them; the MCU's
reference goes with the channels. -/
theorem test_scm_classes_by_priority :
    (scmReceive (asking (0o5010000001 <<< 30)) true (some 1)).scmQueue = [.increment, .mux 2 false, .mcu 5 7, .mux 10 true]
    ∧ (scmReceive (asking (0o0100000100 <<< 30)) true none).scmQueue = [.returnJump, .mux 2 false, .mux 10 true]
    ∧ (scmReceive { asking 0 with cpu := { incs.cpu with phase := .copying ⟨true, 0, 0, 3⟩ } } true none).scmQueue
        = [.mux 2 false, .mux 10 true, .blockCopy] := by decide +kernel

/-- 20_memory.md R84, R93: a request that SCM has received goes before the CPU's next one, which then waits. -/
theorem test_cpu_waits_for_earlier_requests :
    cpuMustWait { asking (0o5010000001 <<< 30) with scmQueue := [.mux 10 true] } = true
    ∧ (cpuReceive { asking (0o5010000001 <<< 30) with scmQueue := [.mux 10 true] }).scmQueue = [.mux 10 true, .increment]
    ∧ cpuMustWait { asking (0o1012000000 <<< 30) with scmQueue := [.mux 10 true] } = false := by decide +kernel

/-- 20_memory.md R110: after 0170 no pulse of the old word goes out. -/
theorem test_0170_drops_the_old_word :
    (muxSend (resetOutput { State.reset with
      mux := State.reset.mux.set 10 ⟨MuxIn.reset, { MuxOut.reset with active := true, owesWord := true }⟩ } 10) 10).mux[(10 : Unit16)].out.sentW = 0 := by
  decide +kernel

/-- 20_memory.md R111: on a high-speed channel whose side has no word to store, the sender's flag clears at once. -/
theorem test_level_clears_output_flag :
    ((settle { outwSet 4 with cfg := { Config.default with links := [(.ppu 1 4, .mux 2)] } }).ppus[(1 : Unit16)]).outw[(4 : Cable)]
      = false := by decide +kernel

/-- 60_exceptions.md R452: a PPU on the scanner that is not selected gets no word. -/
theorem test_unselected_cable_is_silent :
    ((envWord State.reset (.ppu 1 0)).ppus[(1 : Unit16)]).inw[(0 : Cable)] = false
    ∧ ((envWord State.reset (.ppu 1 2)).ppus[(1 : Unit16)]).inw[(2 : Cable)] = true := by decide +kernel

/-- 46_ppu_io.md R397, 60_exceptions.md R454: no device is on the MCU's status lines. -/
theorem test_status_lines_have_no_device :
    ((envWord State.reset (.ppu 0 3)).ppus[(0 : Unit16)]).inw[(3 : Cable)] = false
    ∧ ((envWord State.reset (.ppu 0 2)).ppus[(0 : Unit16)]).inw[(2 : Cable)] = true := by decide +kernel

/-- 20_memory.md R108, R111: two Word Pulses before a sample are two samples. -/
theorem test_each_word_pulse_is_sampled :
    (muxSample (muxSample (hitWord (hitWord State.reset (.mux 2)) (.mux 2)) 2) 2).mux[(2 : Unit16)].inp.asmCnt = 2
    ∧ (muxSample (muxSample (hitWord State.reset (.mux 2)) 2) 2).mux[(2 : Unit16)].inp.asmCnt = 1 := by decide +kernel

/-- 20_memory.md R109, R111: a Record Pulse on a high-speed channel is answered by a Resume Pulse, and the Resume level of
that channel clears the Output Word flag alone. -/
theorem test_high_speed_record_is_answered :
    (muxRecord (hitRecord State.reset (.mux 2)) 2).mux[(2 : Unit16)].inp.sentS = 1
    ∧ (muxSample (hitWord State.reset (.mux 2)) 2).mux[(2 : Unit16)].inp.sentS = 0
    ∧ (({ Ppu.reset with outw := Vector.replicate 8 true, outr := Vector.replicate 8 true } : Ppu).wordTaken 3).outr[(3 : Cable)]
        = true := by decide +kernel

/-- The MCU with the word `w` last output on channel 0, and a word unanswered on channel 7. -/
def mcuSending (w : Word12) : State :=
  setPpu { State.reset with cur := 0 } { Ppu.reset with
    outData := (Vector.replicate 8 0).set 0 w, outw := (Vector.replicate 8 false).set 7 true }

/-- 60_exceptions.md R452: a change of selection from the Reference Voltage Scanner to PPU 1 frees the cable contents. -/
theorem test_selection_change_frees_the_cable :
    afterOutput (mcuSending 0o7000) (mcuSending 0o0400) = garble (mcuSending 0o0400) [1] := by
  have e : (scanTarget (mcuSending 0o7000)).toList ++ (scanTarget (mcuSending 0o0400)).toList = [1] := by decide +kernel
  simp only [afterOutput, e]
  exact if_pos (by decide +kernel)

/-- 70_reset_and_hazards.md R474: the word that a dead start may find half stored: that of a replace add, and none of a
load, of a stopped PPU, or of a PPU that is in dead start already. -/
theorem test_dead_start_cuts_stores_short :
    (getPpu (pp 0 [(0o25, 0o150), (0o1000, 0o4525)])).storing .stuck = some 0o150
    ∧ (getPpu (pp 0 [(0o1000, 0o3025)])).storing .stuck = none
    ∧ ({ getPpu (pp 0 [(0o1000, 0o3525)]) with stopped := true } : Ppu).storing .stuck = none
    ∧ ((getPpu (pp 0 [(0o1000, 0o3525)])).deadStart false).storing .stuck = none := by decide +kernel

/-! ### States that meet the hypotheses of the statements

One theorem for each statement of Certificates/Slice0/Obligations.lean that has hypotheses; for a statement of several
clauses, each clause has its state, at the edge of its range where it has one. -/

/-- Without links between cables no Resume level acts. -/
theorem levelsIdle_of_no_links {s : State} (h : s.cfg.links = []) (hp : s.ppus = State.reset.ppus)
    (hs : s.mcuSwitch = false) : LevelsIdle s :=
  ⟨(congrArg (fun v : Vector Ppu 16 => v[0].outData[0]) hp).trans (by decide), hs, fun c u n _ e => by simp [muxSource, h] at e⟩

theorem quiet_of_no_links {s : State} (h : s.cfg.links = []) (hp : s.ppus = State.reset.ppus)
    (hs : s.mcuSwitch = false) (he : s.sched = []) (hq : s.scmQueue = []) : Quiet s := ⟨levelsIdle_of_no_links h hp hs, he, hq⟩

theorem quiet_incs : Quiet incs := quiet_of_no_links rfl rfl rfl rfl rfl

theorem quiet_incsExit : Quiet incsExit := quiet_of_no_links rfl rfl rfl rfl rfl

theorem quiet_chs : Quiet chs := quiet_of_no_links rfl rfl rfl rfl rfl

/-- `incs` in the middle of a word at parcel n. -/
def inWordAt (n : Fin 4) : State := { incs with cpu := { incs.cpu with parcel := n, ciw := 0o10120 <<< 45 } }

/-- `incs` about to fetch the word at P. -/
def fetching (p : Word18) : State := { incs with cpu := { incs.cpu with p := p, phase := .fetch } }

theorem cpuOk_incs : CpuOk incs.cfg incs.cpu :=
  ⟨by decide, by decide, by decide, by simp [incs, Cpu.reset], by simp [incs, Cpu.reset], by simp [incs], by simp [incs]⟩

theorem witness_EveryStepKeepsInvariant : Inv (inWordAt 0) ∧ ∃ t, step (inWordAt 0) = .next t :=
  ⟨⟨by decide, by decide, by decide +kernel, ⟨by decide, by decide, by decide, by simp [inWordAt, incs, Cpu.reset], by
      simp [inWordAt, incs, Cpu.reset], by simp [inWordAt, incs], by simp [inWordAt, incs]⟩, fun c => by
        have h : (inWordAt 0).mux[c] = ⟨MuxIn.reset, MuxOut.reset⟩ := by simp [inWordAt, incs, State.reset]
        rw [h]; exact ⟨by decide, by decide, by decide⟩⟩, _, rfl⟩

theorem witness_DecodeOfEncodeIsTheInstruction :
    (Instr.ib016 7 7).WellFormed ∧ (Instr.ib016 7 7).namedUnder false = true
      ∧ (Instr.mj013Bk 0 0o777777).WellFormed ∧ (Instr.mj013Bk 0 0o777777).namedUnder true = true
      ∧ Instr.mj013Nea.WellFormed ∧ Instr.mj013Nea.namedUnder false = true := by decide

theorem witness_CpuStepRunsDecodedInstruction : ∀ n : Fin 4, ∃ (p q : Parcel) (i : Instr),
    nextEvent (inWordAt n) = .cpu ∧ cpuHeld (inWordAt n) = false ∧ cpuMustWait (popEvent (inWordAt n)) = false
      ∧ (inWordAt n).cpu.phase = .inWord
      ∧ p = (inWordAt n).cpu.ciw.extractLsb' (45 - 15 * (inWordAt n).cpu.parcel.val) 15
      ∧ q = (if (inWordAt n).cpu.parcel.val = 3 then 0
          else (inWordAt n).cpu.ciw.extractLsb' (30 - 15 * (inWordAt n).cpu.parcel.val) 15)
      ∧ i = decodeCpu (flag (inWordAt n) .exitMode) p q :=
  fun n => ⟨_, _, _, rfl, by revert n; decide +kernel, rfl, rfl, rfl, rfl, rfl⟩

theorem witness_CpuStepFetchesTheWordAtP : ∀ p : Word18, p = 1 ∨ p = 0o777 → ∃ (w : Word60) (i : Instr),
    nextEvent (fetching p) = .cpu ∧ cpuHeld (fetching p) = false ∧ cpuMustWait (popEvent (fetching p)) = false
      ∧ (fetching p).cpu.phase = .fetch ∧ (fetching p).cpu.iws = []
      ∧ NoParity (fetching p) ∧ (fetching p).cpu.p ≠ 0 ∧ (fetching p).cpu.p < (fetching p).cpu.fls
      ∧ (fetching p).cpu.p ≠ (fetching p).cpu.bpa ∧ scmExists (fetching p) (scmAbs (fetching p) (fetching p).cpu.p) = true
      ∧ w = memRead (fetching p).scm (((fetching p).cpu.ras + (fetching p).cpu.p).setWidth 16 : ScmAddr).toNat
      ∧ i = decodeCpu (flag (fetching p) .exitMode) (w.extractLsb' 45 15) (w.extractLsb' 30 15) := by
  rintro p (rfl | rfl) <;> exact ⟨_, _, rfl, by decide +kernel, rfl, rfl, rfl, ⟨rfl, rfl⟩, by decide +kernel,
    by decide +kernel, by decide +kernel, by decide +kernel, rfl, rfl⟩

/-- PPU 1 moves next. -/
def ppuNext (s : State) : State := { s with sched := [.ppu 1] }

theorem witness_PpuStepRunsDecodedInstruction : ∃ (w m : Word12) (i : Instr),
    nextEvent (ppuNext (ppAt 0o7776 0 [])) = .ppu 1 ∧ (1 : Unit16).val < (ppuNext (ppAt 0o7776 0 [])).cfg.ppuCount
      ∧ deadStartUp (ppuNext (ppAt 0o7776 0 [])) 1 = false ∧ (ppuNext (ppAt 0o7776 0 [])).ppus[1].stopped = false
      ∧ (ppuNext (ppAt 0o7776 0 [])).ppus[1].iop = .idle ∧ (ppuNext (ppAt 0o7776 0 [])).ppus[1].p.toNat < 0o7777
      ∧ w = (ppuNext (ppAt 0o7776 0 [])).ppus[1].read (ppuNext (ppAt 0o7776 0 [])).ppus[1].p
      ∧ m = (ppuNext (ppAt 0o7776 0 [])).ppus[1].read ((ppuNext (ppAt 0o7776 0 [])).ppus[1].p + 1) ∧ i = decodePpu w m :=
  ⟨_, _, _, rfl, by decide, by decide +kernel, by decide +kernel, by decide +kernel, by decide +kernel, rfl, rfl, rfl⟩

/-- MCU control words: dead start alone, with the dump bit, and the dump bit alone, at PPU 1; the switch at the MCU; a load
that the dump bit turns into a dump, and one PPU that it leaves. -/
theorem witness_ResetLeavesPpusLoading :
    (deadStartUp (mcuSending 0o0404) 1 = true ∧ mcuBit (mcuSending 0o0404) 1 = false
      ∧ deadStartUp (mcuSending 0o0406) 1 = true ∧ mcuBit (mcuSending 0o0406) 1 = true
      ∧ farTx (mcuSending 0o0404) (.ppu 1 0) = some (.ppu 0 7)
      ∧ deadStartUp { State.reset with mcuSwitch := true } 0 = true)
    ∧ ∀ busy : Bool, ∃ s : State, scanTarget s = some 1 ∧ mcuBit s 2 = false ∧ mcuBit s 1 = true
      ∧ s.ppus[(1 : Unit16)].iop = if busy then .inBlock 0 true true else .idle :=
  ⟨by decide +kernel, fun
    | true => ⟨mcuSending 0o0402, by decide +kernel⟩
    | false => ⟨updPpu (mcuSending 0o0402) 1 (fun q => { q with iop := .idle }), by decide +kernel⟩⟩

theorem witness_DeadStartExchangesAtZero :
    Quiet State.reset ∧ PkgReady State.reset ∧ NoParity State.reset ∧ State.reset.cpu.phase = .deadStart :=
  ⟨quiet_of_no_links rfl rfl rfl rfl rfl, ⟨rfl, rfl, rfl⟩, ⟨rfl, rfl⟩, rfl⟩

theorem witness_OnesComplementAdderIsModular :
    0 < 1 ∧ (ocVal (0 : BitVec 1) + ocVal (1 : BitVec 1)).natAbs < 2 ^ (1 - 1)
      ∧ (ocVal (0 : BitVec 1) - ocVal (1 : BitVec 1)).natAbs < 2 ^ (1 - 1)
      ∧ (ocVal (0o377776 : BitVec 18) + ocVal (1 : BitVec 18)).natAbs < 2 ^ (18 - 1)
      ∧ (ocVal (0o400001 : BitVec 18) - ocVal (1 : BitVec 18)).natAbs < 2 ^ (18 - 1) := by decide +kernel

/-- 22 and 23: both signs of (Bj) occur. -/
theorem witness_ShiftsAndMaskBitByBit :
    (getB (xb 1 0o377777) 3).getLsbD 17 = false ∧ (getB (xb 1 0o400000) 3).getLsbD 17 = true := by decide +kernel

/-- 24 and 25: an infinite and an indefinite word, a zero coefficient, an exponent that falls one below its range, one that just stays. -/
theorem witness_NormalizeShiftsOutLeadingZeros :
    fpClass (getX (xs 0o37770000000000000000#60 0) 1) = .inf ∧ fpClass (getX (xs 0o60000000000000000000#60 0) 1) = .ind
      ∧ fpCoef (getX (xs 0o20000000000000000000#60 0) 1) = 0 ∧ fpClass (getX (xs 0o20000000000000000000#60 0) 1) = .num
      ∧ fpCoef (getX (xs 0o00560000000000000001#60 0) 1) * 2 ^ 47 = 2 ^ 47
      ∧ fpExp (getX (xs 0o00560000000000000001#60 0) 1) - 47 = -1024
      ∧ fpExp (getX (xs 0o00570000000000000001#60 0) 1) - 47 = -1023 := by decide +kernel

theorem witness_RoundNormalizeAddsTheRoundBit :
    fpClass (getX (xs 0o40007777777777777777#60 0) 1) = .inf ∧ fpClass (getX (xs 0o17770000000000000000#60 0) 1) = .ind
      ∧ fpCoef (getX (xs 0o57777777777777777777#60 0) 1) = 0 ∧ fpClass (getX (xs 0o57777777777777777777#60 0) 1) = .num
      ∧ fpExp (getX (xs 0o00560000000000000001#60 0) 1) - 47 < -1023
      ∧ fpExp (getX (xs 0o00570000000000000001#60 0) 1) - 47 = -1023 := by decide +kernel

theorem witness_UnpackAndPackAreInverse : (7 : Reg) ≠ 0 := by decide

theorem witness_FloatingInstructionsDeliver :
    (∃ r : FpResult, FloatsTo (xs 0o17204000000000000000#60 1) (.fx30 0 1 1) 0 r ∧ r.2 = none)
      ∧ (∃ r : FpResult, FloatsTo (xs 0o37770000000000000000#60 1) (.fx30 0 1 1) 0 r ∧ r.2 = some .overflow)
      ∧ (∃ r : FpResult, FloatsTo (monitor (xs 1 0o17770000000000000000#60)) (.fx44 7 1 2) 7 r ∧ r.2 = some .indefinite)
      ∧ ∃ r : FpResult, FloatsTo (xs 0o17204000000000000000#60 0) (.fx40 7 1 2) 7 r ∧ r.2 = some .underflow :=
  ⟨⟨_, .fx30 0 1 1, by decide +kernel⟩, ⟨_, .fx30 0 1 1, by decide +kernel⟩, ⟨_, .fx44 7 1 2, by decide +kernel⟩,
    ⟨_, .fx40 7 1 2, by decide +kernel⟩⟩

theorem witness_IndefiniteOperandGivesIndefinite :
    ∃ r xj xk, FloatsTo (xs 1 0o60000000000000000000#60) (.rx41 0 1 2) 0 r
      ∧ FloatOperands (xs 1 0o60000000000000000000#60) (.rx41 0 1 2) xj xk ∧ (fpClass xj = .ind ∨ fpClass xk = .ind) :=
  ⟨_, _, _, .rx41 0 1 2, .rx41 0 1 2, Or.inr (by decide +kernel)⟩

theorem witness_SpecialOperandTables :
    fpClass 0o37770000000000000000#60 = .inf ∧ fpClass 0o40007777777777777777#60 = .inf
      ∧ fpClass 0#60 = .zero ∧ fpClass (BitVec.allOnes 60) = .zero
      ∧ fpClass 0o00010000000000000000#60 = .num ∧ fpClass 0o37767777777777777777#60 = .num := by decide +kernel

/-- A sum and a difference of exponents 47 apart, the larger just 48 above the lowest; what the rounding of 3 + 0.5, and of
3 - 0.5, starts from. -/
theorem witness_SumHalvesHoldTheExactSum :
    (∃ x y : Word60, x = 0o00600000000000000001#60 ∧ y = 0o00010000000000000001#60 ∧ fpClass x = .num ∧ fpClass y = .num
      ∧ max (fpExp x) (fpExp y) - min (fpExp x) (fpExp y) = 47 ∧ max (fpExp x) (fpExp y) - 48 = -1023)
    ∧ ∃ x y : Word60, x = 0o20000000000000000003#60 ∧ y = 0o17760000000000000001#60
      ∧ (fpNorm x && fpNorm y || (x.msb != y.msb) != false) = false
      ∧ (fpNorm x && fpNorm y || (x.msb != y.msb) != true) = true
      ∧ roundedCoef x (false || decide (fpExp y < fpExp x)) = 7 ∧ roundedCoef y (false || decide (fpExp x ≤ fpExp y)) = 2
      ∧ roundedCoef y (true || decide (fpExp x ≤ fpExp y)) = 3 :=
  ⟨⟨_, _, rfl, rfl, by decide +kernel⟩, _, _, rfl, rfl, by decide +kernel⟩

/-- Normalized factors at the lowest exponents of 42 and of 41, and factors that are not normalized. -/
theorem witness_ProductHalvesHoldTheExactProduct :
    (∃ x y z : Word60, fpClass x = .num ∧ fpClass y = .num ∧ fpClass z = .num
      ∧ (fpNorm x && fpNorm y) = true ∧ (fpNorm x && fpNorm z) = true
      ∧ fpExp x + fpExp y = -1022 ∧ fpExp x + fpExp z + 48 = -1022)
    ∧ ∃ x : Word60, fpClass x = .num ∧ (fpNorm x && fpNorm x) = false ∧ fpExp x + fpExp x + 48 ≤ 1023
      ∧ -1022 ≤ fpExp x + fpExp x :=
  ⟨⟨0o10004000000000000000#60, 0o10004000000000000000#60, 0o07204000000000000000#60, by decide +kernel⟩,
    0o20000000000000000005#60, by decide +kernel⟩

/-- A dividend coefficient just below twice the divisor's, and one of exactly twice. -/
theorem witness_QuotientIsExactToItsLastBit :
    (∃ x y : Word60, fpClass x = .num ∧ fpClass y = .num ∧ fpExp x = 0 ∧ fpExp y = 0 ∧ fpCoef x + 1 = 2 * fpCoef y)
      ∧ ∃ x y : Word60, fpClass x = .num ∧ fpClass y = .num ∧ fpExp x = 0 ∧ fpExp y = 0 ∧ 2 * fpCoef y = fpCoef x :=
  ⟨⟨0o20000000000000000005#60, 0o20000000000000000003#60, by decide +kernel⟩,
    0o20000000000000000004#60, 0o20000000000000000002#60, by decide +kernel⟩

theorem witness_BranchesChooseTheNextWord :
    (∃ c, BranchesIf (b2 5 5) (.eq04 1 2 0o300) c 0o300 ∧ c) ∧ ∃ c, BranchesIf (b2 5 6) (.eq04 1 2 0o300) c 0o300 ∧ ¬ c :=
  ⟨⟨_, .eq04 1 2 0o300, by decide +kernel⟩, _, .eq04 1 2 0o300, by decide +kernel⟩

/-- K at both ends of its range, with SCM Direct Range clear and set. -/
theorem witness_ReturnJumpStoresTheExitWord :
    NoParity incs ∧ (∀ K : Word18, K = 1 ∨ K = 0o777 → K < incs.cpu.fls ∧ K ≠ 0 ∧ K ≠ incs.cpu.bpa
        ∧ scmExists incs (scmAbs incs K) = true)
      ∧ flag incs .scmDirectRange = false ∧ flag (setFlag incs .scmDirectRange) .scmDirectRange = true :=
  ⟨⟨rfl, rfl⟩, by rintro K (rfl | rfl) <;> decide +kernel, by decide +kernel, by decide +kernel⟩

/-- `incs` after two stores in range, at the absolute addresses `a` and `b`. -/
def storing (a b : ScmAddr) : State := { incs with cpu := { incs.cpu with recent := [.store a 1, .store b 2] } }

/-- K = FLS, K = 0, and K = (BPA) inside the field; with stores that can be lost. -/
theorem witness_ReturnJumpErrorExits :
    Quiet (storing 0o300 0o301) ∧ NoParity (storing 0o300 0o301) ∧ PkgReady (storing 0o300 0o301)
      ∧ (storing 0o300 0o301).cpu.fls = (0o1000 : Word18) ∧ ¬ (storing 0o300 0o301).cpu.fls ≤ (0 : Word18)
      ∧ ∃ s : State, Quiet s ∧ NoParity s ∧ PkgReady s ∧ s.cpu.bpa < s.cpu.fls :=
  ⟨quiet_of_no_links rfl rfl rfl rfl rfl, ⟨rfl, rfl⟩, ⟨rfl, rfl, rfl⟩, by decide, by decide,
    { incs with cpu := { incs.cpu with bpa := 0o300 } },
    quiet_of_no_links rfl rfl rfl rfl rfl, ⟨rfl, rfl⟩, ⟨rfl, rfl, rfl⟩, by decide⟩

/-- The beginning; then a sequence with no word read, and one with a word to write. -/
theorem witness_ExchangeJumpSwapsRegistersAndPackage :
    (Quiet incs ∧ NoParity incs ∧ PkgReady incs)
      ∧ (∀ x, Quiet (exchanging x) ∧ NoParity (exchanging x) ∧ (exchanging x).cfg.scmWords = 65536
        ∧ (exchanging x).cpu.phase = .exchanging x)
      ∧ (∃ w : Fin 16, (begun .errorExit 5).put[w] = false ∧ (begun .errorExit 5).got[w] = none)
      ∧ ∃ w : Fin 16, (exchange .errorExit 5 (Vector.replicate 16 (some 0)) (Vector.replicate 16 false)).put[w] = false
        ∧ (exchange .errorExit 5 (Vector.replicate 16 (some 0)) (Vector.replicate 16 false)).got[w] ≠ none :=
  ⟨⟨quiet_incs, ⟨rfl, rfl⟩, rfl, rfl, rfl⟩, fun _ => ⟨quiet_of_no_links rfl rfl rfl rfl rfl, ⟨rfl, rfl⟩, rfl, rfl⟩,
    ⟨15, by decide⟩, 0, by decide⟩

theorem witness_ExchangeBackRestoresTheRegisters : Quiet incsExit ∧ NoParity incsExit ∧ PkgReady incsExit :=
  ⟨quiet_incsExit, ⟨rfl, rfl⟩, rfl, rfl, rfl⟩

theorem witness_ErrorExitInstruction : Quiet incsExit ∧ NoParity incsExit ∧ PkgReady incsExit :=
  ⟨quiet_incsExit, ⟨rfl, rfl⟩, rfl, rfl, rfl⟩

theorem witness_ExchangeExitInstructions : Quiet chs ∧ NoParity chs ∧ PkgReady chs :=
  ⟨quiet_chs, ⟨rfl, rfl⟩, rfl, rfl, rfl⟩

/-- Counts 0, there with (A0) beyond the field too, and 300, which is exactly what is left of the SCM field; copies both ways
with 1024 words and with none left. -/
theorem witness_BlockCopiesMoveTheWords :
    ((ocAdd 0o777774 (getB blk 2)).toNat = 0
        ∧ (ocAdd 0o777774 (getB (setAReg blk 0 0o777777) 2)).toNat = 0
        ∧ (setAReg blk 0 0o777777).cpu.fls < getA (setAReg blk 0 0o777777) 0)
      ∧ (ocAdd 0o275 (getB blk 2)).toNat + ((getX blk 0).setWidth 19 : BitVec 19).toNat ≤ blk.cpu.fll.toNat
      ∧ (ocAdd 0o275 (getB blk 2)).toNat + (getA blk 0).toNat = blk.cpu.fls.toNat
      ∧ ∀ b n, Quiet (copying b n) ∧ NoParity (copying b n) ∧ (copying b n).cfg.scmWords = 65536
        ∧ (copying b n).cfg.lcmWords = 524288 ∧ (copying b n).cpu.phase = .copying ⟨b, 0o100, 0o500, n⟩ :=
  ⟨⟨by decide +kernel, by decide +kernel, by decide +kernel⟩, by decide +kernel, by decide +kernel,
    fun _ _ => ⟨quiet_of_no_links rfl rfl rfl rfl rfl, ⟨rfl, rfl⟩, rfl, rfl, rfl⟩⟩

/-- One word more than that; and more than is left of both fields. -/
theorem witness_BlockCopiesOutOfRange :
    (ocAdd 0o276 (getB blk 2)).toNat + (getA blk 0).toNat = blk.cpu.fls.toNat + 1 ∧ (ocAdd 0o276 (getB blk 2)).toNat ≠ 0
      ∧ blk.cpu.fll.toNat < (ocAdd 0o1676 (getB blk 2)).toNat + ((getX blk 0).setWidth 19 : BitVec 19).toNat
      ∧ blk.cpu.fls.toNat < (ocAdd 0o1676 (getB blk 2)).toNat + (getA blk 0).toNat := by decide +kernel

theorem witness_LcmWordReferences :
    NoParity blk ∧ blk.cpu.fll = ((getX blk 4).setWidth 19 : BitVec 19)
      ∧ lcmExists blk (lcmAbs blk ((getX blk 4).setWidth 19)) = true
      ∧ ((getX blk 0).setWidth 19 : BitVec 19) < blk.cpu.fll
      ∧ lcmExists blk (lcmAbs blk ((getX blk 0).setWidth 19)) = true :=
  ⟨⟨rfl, rfl⟩, by decide +kernel, by decide +kernel, by decide +kernel, by decide +kernel⟩

/-- i = 0; i = 1 and 5 with r = 0, and with r = FLS - 1. -/
theorem witness_SetAReadsStorage :
    (∃ r, SetsA incs (.sa50 0 2 0) 0 r) ∧ NoParity incs
      ∧ (∃ r, SetsA incs (.sa50 1 2 0o777677) 1 r ∧ r = 0 ∧ r < incs.cpu.fls ∧ scmExists incs (scmAbs incs r) = true)
      ∧ ∃ r, SetsA incs (.sa51 5 3 0o757) 5 r ∧ r = 0o777 ∧ r < incs.cpu.fls ∧ scmExists incs (scmAbs incs r) = true :=
  ⟨⟨_, .sa50 0 2 0⟩, ⟨rfl, rfl⟩, ⟨_, .sa50 1 2 0o777677, by decide +kernel, by decide +kernel, by decide +kernel⟩,
    _, .sa51 5 3 0o757, by decide +kernel, by decide +kernel, by decide +kernel⟩

theorem witness_SetAWritesStorage :
    NoParity incs
      ∧ (∃ r, SetsA incs (.sa56 6 3 3) 6 r ∧ r < incs.cpu.fls ∧ scmExists incs (scmAbs incs r) = true)
      ∧ ∃ r, SetsA (setFlag incs .scmDirectRange) (.sa57 7 3 3) 7 r ∧ r = 0 ∧ r < incs.cpu.fls
        ∧ scmExists incs (scmAbs incs r) = true ∧ flag (setFlag incs .scmDirectRange) .scmDirectRange = true :=
  ⟨⟨rfl, rfl⟩, ⟨_, .sa56 6 3 3, by decide +kernel, by decide +kernel⟩,
    _, .sa57 7 3 3, by decide +kernel, by decide +kernel, by decide +kernel, by decide +kernel⟩

/-- r = FLS for a read and for a write, with NOTE8_FCO either way; two stores to different words, and to one word. -/
theorem witness_SetAOutOfRange :
    (∀ a b, (storing a b).cpu.recent = [.store a 1, .store b 2] ∧ flag (storing a b) .scmDirectRange = false)
      ∧ scmExists (storing 0o300 0o301) 0o300 = true ∧ scmExists (storing 0o300 0o301) 0o301 = true
      ∧ scmExists (storing 0o300 0o300) 0o300 = true
      ∧ NoParity incs ∧ incs.cfg.note8Fco = false
      ∧ (∃ r, SetsA incs (.sa50 1 2 0o700) 1 r ∧ incs.cpu.fls = r ∧ scmExists incs (scmAbs incs r) = true)
      ∧ (∃ r, SetsA incs (.sa50 6 2 0o700) 6 r ∧ incs.cpu.fls = r ∧ scmExists incs (scmAbs incs r) = true)
      ∧ ∃ s r, s.cfg.note8Fco = true ∧ NoParity s ∧ SetsA s (.sa50 1 2 0o700) 1 r ∧ s.cpu.fls ≤ r
        ∧ scmExists s (scmAbs s r) = true :=
  ⟨fun a b => ⟨rfl, show flag incs .scmDirectRange = false by decide +kernel⟩, by decide, by decide, by decide, ⟨rfl, rfl⟩, rfl,
    ⟨_, .sa50 1 2 0o700, by decide +kernel, by decide +kernel⟩, ⟨_, .sa50 6 2 0o700, by decide +kernel, by decide +kernel⟩,
    { incs with cfg := { incs.cfg with note8Fco := true } }, _, rfl, ⟨rfl, rfl⟩, .sa50 1 2 0o700, by decide +kernel,
    by decide +kernel⟩

theorem witness_SetBAndSetXSetOneRegister :
    (∃ r, SetsB incs (.sb66 0 3 4) 0 r) ∧ (∃ r, SetsB incs (.sb67 7 0 3) 7 r)
      ∧ ∃ r, SetsX incs (.sx77 1 0 3) 1 r ∧ r.getLsbD 17 = true :=
  ⟨⟨_, .sb66 0 3 4⟩, ⟨_, .sb67 7 0 3⟩, _, .sx77 1 0 3, by decide +kernel⟩

/-- Outside Monitor Mode; in it with channel 0 and with an absent channel; and with a channel that exists. -/
theorem witness_ChannelResetsNeedMonitorMode :
    flag chs .monitorMode = false ∧ (10 : Unit16).val = (getB chs 2).toNat % 16 ∧ (0 : Unit16).val = (getB chs 0).toNat % 16
      ∧ flag (monitor chs) .monitorMode = true ∧ (10 : Unit16).val = (getB (monitor chs) 2).toNat % 16
      ∧ (monitor chs).cfg.muxPresent[(10 : Unit16)] = true
      ∧ ({ monitor chs with cfg := { Config.default with muxPresent := Vector.replicate 16 false } } :
          State).cfg.muxPresent[(10 : Unit16)] = false := by decide +kernel

/-- Channel 0, one that exists, with STATUS_ABSOLUTE either way, and one that does not, none of them just reset. -/
theorem witness_ChannelStatusReads :
    ({ chs with cfg := { Config.default with statusAbsolute := true } } : State).cfg.muxPresent[(10 : Unit16)] = true ∧
    (0 : Unit16).val = (getB chs 0).toNat % 16 ∧ (10 : Unit16).val = (getB chs 2).toNat % 16 ∧ chs.cpu.afterReset = none
      ∧ chs.cfg.statusAbsolute = false ∧ chs.cfg.muxPresent[(10 : Unit16)] = true
      ∧ ({ chs with cfg := { Config.default with muxPresent := Vector.replicate 16 false } } :
          State).cfg.muxPresent[(10 : Unit16)] = false := by decide +kernel

/-- Output side 10, a normal channel, and 2, a high-speed one, as given. -/
def sending (m : MuxOut) : State :=
  { State.reset with mux := (State.reset.mux.set 10 ⟨MuxIn.reset, m⟩).set 2 ⟨MuxIn.reset, m⟩ }

/-- Word Requests of input side 12 and output side 1 out, received in that order. -/
def twoReceived : State :=
  { State.reset with
    mux := (State.reset.mux.set 12 ⟨{ MuxIn.reset with wordReq := true, asm := 5 }, MuxOut.reset⟩).set 1
      ⟨MuxIn.reset, { MuxOut.reset with wordReq := true }⟩
    scmQueue := [.mux 12 true, .mux 1 false] }

/-- The CPU in a phase, at a word, with these addresses in the stack and this queue. -/
def cpuAt (ph : Phase) (ins : Word60) (stack : List Word18) (queue : List ScmRequest) : State :=
  { twoReceived with
    cpu := { incs.cpu with phase := ph, ciw := ins, iws := stack.map (fun w => (w, 0)) }, scmQueue := queue, mcuOut := [(5, 7)] }

/-- A request received before the CPU's, out and withdrawn, the CPU's received or not; an exchange with its last word to write
and with none; the instructions with a request and one without; a word current with the stack void and with its words there. -/
theorem witness_ScmServesRequestsInOrder :
    (∀ q ∈ [[], [.fetch]], cpuHeld (cpuAt .fetch 0 [] ([] ++ .mux 12 true :: q)) = false
      ∧ requestOut (cpuAt .fetch 0 [] ([] ++ .mux 12 true :: q)) (.mux 12 true) = true
      ∧ requestOut (cpuAt .fetch 0 [] ([] ++ .mux 12 false :: q)) (.mux 12 false) = false
      ∧ cpuRequest (cpuAt .fetch 0 [] ([] ++ .mux 12 true :: q)) = some .fetch
      ∧ cpuRequest (cpuAt .deadStart 0 [] ([] ++ .mux 12 true :: q)) = none)
    ∧ servedRequest (cpuAt .fetch 0 [] [.mux 12 false, .mcu 5 7, .fetch]) ≠ some (.mux 12 true)
    ∧ (∀ a v, servedRequest (cpuAt .fetch 0 [] [.mux 12 true, .mcu 5 7]) ≠ some (.mcu a v))
    ∧ (exchange .errorExit 5 (Vector.replicate 16 (some 0)) ((Vector.replicate 16 true).set 15 false)).put[(15 : Fin 16)] = false
    ∧ (∀ w : Fin 16, (exchange .errorExit 5 (Vector.replicate 16 (some 0)) (Vector.replicate 16 true)).put[w] = true)
    ∧ (∀ i : Reg, i = 0 ∨ i = 7 → ∃ r, SetsA incs (.sa50 i 7 0o777777) i r)
    ∧ currentInstr (cpuAt .inWord (0o5077777777 <<< 30) [] []) = .sa50 7 7 0o777777
    ∧ currentInstr (cpuAt .inWord (0o5007777777 <<< 30) [] []) = .sa50 0 7 0o777777
    ∧ currentInstr (cpuAt .inWord (0o0100777777 <<< 30) [] []) = .rj010 0o777777
    ∧ currentInstr (cpuAt .inWord (0o1012000000 <<< 30) [] []) = .bx10 1 2
    ∧ (makeCurrent (cpuAt .fetch 0 [0o100, 0o101] []) false).cpu.phase = .inWord
    ∧ (makeCurrent (cpuAt .newInterval 0 [0o100, 0o101, 0o102] []) true).cpu.phase = .inWord
    ∧ (makeCurrent { cpuAt .fetch 0 [] [] with cpu := { incs.cpu with p := 0 } } false).cpu.phase ≠ .inWord := by
  refine ⟨by decide +kernel, by decide +kernel, fun a v h => ?_, by decide, by decide, ?_, by decide +kernel, by decide +kernel,
    by decide +kernel, by decide +kernel, by decide +kernel, by decide +kernel, by decide +kernel⟩
  · rw [show servedRequest (cpuAt .fetch 0 [] [.mux 12 true, .mcu 5 7]) = some (.mux 12 true) by decide +kernel] at h
    cases h
  · rintro i (rfl | rfl) <;> exact ⟨_, .sa50 _ _ _⟩

/-- A record with no word in part and with four; a request received; then the delivery of a word on both kinds of channel, the first pulse, a
Resume before the last word and after it, and a high-speed side that runs ahead by its first and its last word. -/
theorem witness_FiveWordsAssembleInOrder :
    MuxIn.reset.asmCnt = 0 ∧ ({ MuxIn.reset with asmCnt := 4 } : MuxIn).asmCnt.toNat = 4
      ∧ (servedRequest twoReceived = some (.mux 12 true) ∧ NoParity twoReceived ∧ scmExists twoReceived (bufScm twoReceived.cfg.inBuf[(12 : Unit16)] 0) = true)
      ∧ (∀ c : Unit16, c = 10 ∨ c = 2 →
        servedRequest { State.reset with
            scmQueue := [.mux c false], mux := State.reset.mux.set c ⟨MuxIn.reset, { MuxOut.reset with wordReq := true }⟩ }
            = some (.mux c false)
          ∧ scmExists State.reset (bufScm State.reset.cfg.outBuf[c] 0) = true)
      ∧ State.reset.cfg.highSpeed[(10 : Unit16)] = false ∧ State.reset.cfg.highSpeed[(2 : Unit16)] = true
      ∧ (∀ b n r, n.toNat ≤ 4 → ∀ m, m = (sending { MuxOut.reset with
            active := true, owesWord := b, disCnt := n, resIn := 1, ranks := r }).mux[(10 : Unit16)].out →
          m.active = true ∧ m.held = false ∧ m.owesWord = b ∧ m.wordReq = false ∧ 0 < m.resIn ∧ m.disCnt = n)
      ∧ ∀ n : BitVec 3, ∀ m, m = (sending { MuxOut.reset with active := true, disCnt := n }).mux[(2 : Unit16)].out →
          m.active = true ∧ m.held = false ∧ m.wordReq = false ∧ m.ranks.length < 3 ∧ m.disCnt = n := by
  refine ⟨rfl, rfl, ⟨by decide +kernel, ⟨rfl, rfl⟩, by decide +kernel⟩, ?_, by decide, by decide, ?_, ?_⟩
  · rintro c (rfl | rfl) <;> decide +kernel
  · rintro b n r _ m rfl
    simp [sending, MuxOut.reset]
  · rintro n m rfl
    simp [sending, MuxOut.reset]

/-- Both sides of channel 10 held, with pulses to serve and to send. -/
def heldSides : State :=
  { State.reset with mux := State.reset.mux.set 10 ⟨
      { MuxIn.reset with held := true, wordIn := 1, recIn := 1 },
      { MuxOut.reset with held := true, active := true, owesWord := true, resIn := 1 }⟩ }

/-- A word that does not advance to a threshold, and one that does, with no request, one pending, and locked out. -/
theorem witness_BufferThresholdsRaiseRequests :
    (∀ e ∈ [Event.muxSample 10, .muxRecord 10, .muxSend 10, .muxAhead 10, .muxResume 10],
        nextEvent { heldSides with sched := [e] } = e)
      ∧ heldSides.mux[(10 : Unit16)].inp.held = true ∧ heldSides.mux[(10 : Unit16)].out.held = true
      ∧ heldSides.mux[(10 : Unit16)].out.active = true
      ∧ (∀ a ∈ [(0 : BitVec 8), 63, 127], ({ MuxIn.reset with bufAddr := a } : MuxIn).endRec = false ∧ a.toNat < 128)
      ∧ (∀ a ∈ [(0 : BitVec 8), 63, 127], ({ MuxOut.reset with bufAddr := a } : MuxOut).bufAddr.toNat < 128)
      ∧ (63 : BitVec 8).toNat + 1 = 128 / 2 ∧ (127 : BitVec 8).toNat + 1 = 128 ∧ (255 : BitVec 8).toNat + 1 = 256
      ∧ (0 : BitVec 8).toNat + 1 ≠ 128 ∧ (0 : BitVec 8).toNat + 1 ≠ 128 / 2
      ∧ MuxIn.reset.ireq = false ∧ MuxIn.reset.lockout = false ∧ MuxOut.reset.ireq = false ∧ MuxOut.reset.lockout = false
      ∧ ({ MuxIn.reset with bufAddr := 127, lockout := true } : MuxIn).endRec = false := by decide +kernel

/-- In Monitor Mode; with Clear I/O up. -/
theorem witness_MonitorModeMasksIoRequests :
    flag (monitor incs) .monitorMode = true ∧ (monitor incs).rtcFlag = false
      ∧ errorRequest (monitor incs).cpu.psd = false ∧ breakAfterBranch (monitor incs) = false
      ∧ ∃ s : State, (s.ppus[0].outData[0]).getLsbD 4 = true :=
  ⟨by decide +kernel, by decide +kernel, by decide +kernel, by decide +kernel,
    setPpu { State.reset with cur := 0 } { Ppu.reset with outData := (Vector.replicate 8 0).set 0 0o20 }, by decide +kernel⟩

/-- Channel 10 with both requests pending; then with the output's alone. -/
def requesting (input : Bool) : State :=
  { chs with mux := chs.mux.set 10 ⟨{ MuxIn.reset with ireq := input }, { MuxOut.reset with ireq := true }⟩ }

theorem witness_IoRequestsAreTakenInOrder :
    (∀ b : Bool, Quiet (requesting b) ∧ NoParity (requesting b) ∧ PkgReady (requesting b)
        ∧ flag (requesting b) .monitorMode = false)
      ∧ pendingIo (requesting true) = some (10, true) ∧ pendingIo (requesting false) = some (10, false) :=
  ⟨fun b => ⟨quiet_of_no_links rfl rfl rfl rfl rfl, ⟨rfl, rfl⟩, ⟨rfl, rfl, rfl⟩, by revert b; decide +kernel⟩,
    by decide +kernel, by decide +kernel⟩

/-- A bad SCM word at address 10100, and the first word of the LCM field of `blk` bad. -/
def badWords : State := { blk with scmBad := [(0o10100, 3)], lcmBad := [(0o40100, 5)] }

/-- `incs` in a word stepped by Step Mode. -/
def stepped : State := { incs with cpu := { incs.cpu with psd := 0o100010, slip := some 0 } }

/-- `incs` in a word with an executed branch, whose following word is at (BPA). -/
def branched : State := { incs with cpu := { incs.cpu with branched := true, p := 0o777777, bpa := 0 } }

theorem witness_ErrorExitAtTheEndOfTheWord :
    (Quiet (setFlag incs .step) ∧ NoParity (setFlag incs .step) ∧ PkgReady (setFlag incs .step)
      ∧ errorRequest (setFlag incs .step).cpu.psd = true
      ∧ breakAfterBranch (setFlag incs .step) = false ∧ (setFlag incs .step).cpu.slip = none
      ∧ ({ setFlag incs .step with cpu := { (setFlag incs .step).cpu with slip := some 0 } } : State).cpu.slip = some 0)
    ∧ (∃ s : State, errorRequest s.cpu.psd = true ∧ breakAfterBranch s = false ∧ s.cpu.slip = some 1 ∧ s.rtcFlag = false
        ∧ pendingIo s = none)
    ∧ (∃ s : State, flag s .stepMode = true ∧ flag s .step = false)
    ∧ (Quiet stepped ∧ NoParity stepped ∧ PkgReady stepped ∧ flag stepped .step = true ∧ stepped.cpu.slip = some 0
        ∧ stepped.cpu.branched = false)
    ∧ (Quiet branched ∧ NoParity branched ∧ PkgReady branched ∧ branched.cpu.branched = true
        ∧ branched.cpu.p + 1 = branched.cpu.bpa)
    ∧ (badWords.scmBad.find? (fun e => e.1 == (0o10100 : ScmAddr)) = some (0o10100, 3) ∧ ∀ x, badWords.cpu.phase ≠ .exchanging x)
    ∧ badWords.lcmBad.find? (fun e => e.1 == (0o40100 : LcmAddr)) = some (0o40100, 5)
    ∧ flag badWords .scmParity = false ∧ flag badWords .lcmParity = false
    ∧ ((getX badWords 0).setWidth 19 : BitVec 19) < badWords.cpu.fll ∧ lcmAbs badWords ((getX badWords 0).setWidth 19) = 0o40100 :=
  ⟨⟨quiet_of_no_links rfl rfl rfl rfl rfl, ⟨rfl, rfl⟩, ⟨rfl, rfl, rfl⟩, by decide +kernel, by decide +kernel, rfl, rfl⟩,
    ⟨{ setFlag incs .step with cpu := { (setFlag incs .step).cpu with slip := some 1 } }, by decide +kernel, by decide +kernel,
      rfl, rfl, by decide +kernel⟩,
    ⟨setFlag incs .stepMode, by decide +kernel, by decide +kernel⟩,
    ⟨quiet_of_no_links rfl rfl rfl rfl rfl, ⟨rfl, rfl⟩, ⟨rfl, rfl, rfl⟩, by decide +kernel, rfl, rfl⟩,
    ⟨quiet_of_no_links rfl rfl rfl rfl rfl, ⟨rfl, rfl⟩, ⟨rfl, rfl, rfl⟩, rfl, by decide⟩,
    ⟨by decide +kernel, by intro x h; cases h⟩, by decide +kernel, by decide +kernel, by decide +kernel, by decide +kernel,
    by decide +kernel⟩

/-- At the start of an execution interval whose PSD arrives with Step set. -/
def loadedStep : State := { incs with cpu := { incs.cpu with psd := 8, phase := .newInterval } }

/-- At (BPA), inside the field, reached from a word of two 30-bit Increment instructions. -/
def afterIncs : State := { incs with cpu := { incs.cpu with p := 1, bpa := 1, phase := .fetch, seqInc := true } }

/-- P = 0, P = FLS, and P = (BPA), which here is above FLS; a cause that arrives set; and the late breakpoint. -/
theorem witness_AddressTestsTakeTheErrorExit :
    (∀ p : Word18, p = 0 ∨ p = 0o1000 ∨ p = 0o777777 → Quiet (fetching p) ∧ NoParity (fetching p) ∧ PkgReady (fetching p)
        ∧ (fetching p).cpu.phase = .fetch ∧ (fetching p).cpu.seqInc = false)
      ∧ (fetching 0).cpu.p = 0 ∧ (fetching 0o1000).cpu.fls = (fetching 0o1000).cpu.p
      ∧ (fetching 0o777777).cpu.p = (fetching 0o777777).cpu.bpa
      ∧ Quiet loadedStep ∧ NoParity loadedStep ∧ PkgReady loadedStep ∧ loadedStep.cpu.phase = .newInterval
      ∧ loadedStep.cpu.seqInc = false ∧ errorRequest loadedStep.cpu.psd = true
      ∧ Quiet afterIncs ∧ NoParity afterIncs ∧ PkgReady afterIncs ∧ afterIncs.cpu.phase = .fetch ∧ afterIncs.cpu.seqInc = true
      ∧ afterIncs.cpu.p = afterIncs.cpu.bpa ∧ afterIncs.cpu.p ≠ 0 ∧ afterIncs.cpu.p < afterIncs.cpu.fls ∧ afterIncs.cpu.iws = [] :=
  ⟨by rintro p (rfl | rfl | rfl) <;> exact ⟨quiet_of_no_links rfl rfl rfl rfl rfl, ⟨rfl, rfl⟩, ⟨rfl, rfl, rfl⟩, rfl, rfl⟩,
    rfl, rfl, rfl, quiet_of_no_links rfl rfl rfl rfl rfl, ⟨rfl, rfl⟩, ⟨rfl, rfl, rfl⟩, rfl, rfl, by decide +kernel,
    quiet_of_no_links rfl rfl rfl rfl rfl, ⟨rfl, rfl⟩, ⟨rfl, rfl, rfl⟩, rfl, rfl, rfl, by decide, by decide, rfl⟩

/-- The clock's step at the wrap, and a step of the CPU. -/
theorem witness_ClockWrapRequestsInterrupt :
    LevelsIdle { State.reset with clk := BitVec.ofNat 17 (2 ^ 17 - 1), sched := [.clock] }
      ∧ (BitVec.ofNat 17 (2 ^ 17 - 1)).toNat = 2 ^ 17 - 1
      ∧ nextEvent (inWordAt 0) ≠ .clock ∧ ∃ t, step (inWordAt 0) = .next t :=
  ⟨levelsIdle_of_no_links rfl rfl rfl, by decide +kernel, by decide, _, rfl⟩

/-- An instruction; a step inside a word, and one of an exchange with one word still to write. -/
theorem witness_ControlRegistersNeedAnExchange :
    (∃ t, exec (.sa50 1 2 0o700) incs = .next t)
      ∧ (∀ x, (inWordAt 0).cpu.phase ≠ .exchanging x) ∧ (∃ t, step (inWordAt 0) = .next t)
      ∧ (∃ w : Fin 16, (exchange .errorExit 5 (Vector.replicate 16 (some 0))
          ((Vector.replicate 16 true).set 7 false)).put[w] = false)
      ∧ ∀ x, ∃ t, step (exchanging x) = .next t :=
  ⟨⟨_, rfl⟩, fun x h => by simp [inWordAt, incs] at h, ⟨_, rfl⟩, ⟨7, by decide⟩,
    fun x => ⟨_, step_exchanging (x := x) (quiet_of_no_links rfl rfl rfl rfl rfl) rfl⟩⟩

/-- An instruction; a copy whose words end at the end of the SCM field; a write of the MCU to the last word of SCM. -/
theorem witness_StoresStayInsideTheField :
    (∃ s : State, nextEvent s = .mcuStore ∧ servedRequest s = some (.mcu 0o177777 5) ∧ NoParity s ∧ scmExists s 0o177777 = true)
      ∧ (∃ t, CpuOk incs.cfg incs.cpu ∧ exec (.sa57 7 3 3) incs = .next t)
      ∧ ∀ b, CpuOk (copying b 0o300).cfg (copying b 0o300).cpu
        ∧ (copying b 0o300).cpu.phase = .copying ⟨b, 0o100, 0o500, 0o300⟩ :=
  ⟨⟨{ incs with sched := [.mcuStore], scmQueue := [.mcu 0o177777 5] }, rfl, by decide +kernel, ⟨rfl, rfl⟩, by decide⟩, ⟨_, cpuOk_incs, rfl⟩, fun b => ⟨⟨by revert b; decide, by revert b; decide, by revert b; decide,
    by simp [copying, blk, Cpu.reset], by simp [copying, blk, Cpu.reset], by rintro r h; cases h; revert b; decide,
    by rintro x h; cases h⟩, rfl⟩⟩

/-- The MCU at 100 with the word `w` last output on channel 0 and `a` in A. -/
def mcuSelecting (w : Word12) (a : Word18) : State :=
  setPpu { State.reset with cur := 0 } { Ppu.reset with
    outData := (Vector.replicate 8 0).set 0 w, a := a, p := 0o100, iop := .idle }

/-- An instruction of each kind, a word step of 73, a CPU turn, and the MCU with another PPU selected. -/
theorem witness_ProcessorsKeepToTheirOwnState :
    (∃ w m t, encode (.std34 0o25) = .ppu w m ∧ exec (.std34 0o25) (pp 1 []) = .next t)
      ∧ (∃ p q t, encode (.sa57 7 3 3) = .cpu p q ∧ exec (.sa57 7 3 3) incs = .next t)
      ∧ (∃ t, ppuStep (setPpu (ppAt 0o100 2 []) { getPpu (ppAt 0o100 2 []) with iop := .outBlock 5 false }) = .next t)
      ∧ (∃ t, cpuTurn (inWordAt 0) = .next t)
      ∧ (ppAt 0o100 0 []).cur ≠ 0 ∧ scanTarget { ppAt 0o100 0 [] with cur := 0 } = none
      ∧ (∃ t, exec (.oan72 0) (mcuSelecting 0o400 0o1000) = .next t ∧ scanTarget t = some 2)
      ∧ scanTarget (mcuSelecting 0o400 0o1000) = some 1 :=
  ⟨⟨_, _, _, rfl, rfl⟩, ⟨_, _, _, rfl, rfl⟩, ⟨_, rfl⟩, ⟨_, rfl⟩, by decide, by decide +kernel, ⟨_, rfl, by decide +kernel⟩, by decide +kernel⟩

/-- P at the last place from which the instruction's words do not pass 7777. -/
theorem witness_PpuInstructionsThatSetA :
    (∃ v p, PpuSetsA (getPpu (ppAt 0o7776 0 [])) (.shn10 0o37) 1 v
        ∧ nextAddr (ppAt 0o7776 0 []).cfg.pWrap (getPpu (ppAt 0o7776 0 [])).p 1 = some p)
      ∧ (∃ v, PpuSetsA (getPpu (ppAt 0o7776 0 [])) (.shn10 0o40) 1 v)
      ∧ ∃ v p, PpuSetsA (getPpu (ppAt 0o7775 0 [])) (.lmm53 0o77 0o7777) 2 v
        ∧ nextAddr (ppAt 0o7775 0 []).cfg.pWrap (getPpu (ppAt 0o7775 0 [])).p 2 = some p :=
  ⟨⟨_, 0o7777, .shn10Left 0o37 (by decide), by decide +kernel⟩, ⟨_, .shn10Right 0o40 (by decide)⟩,
    _, 0o7777, .lmm53 0o77 0o7777, by decide +kernel⟩

theorem witness_PpuInstructionsThatStore :
    (∃ a v, PpuStoresAt (getPpu (ppAt 0o7775 1 [])) (.som57 0 0o7777) 2 a v
      ∧ nextAddr (ppAt 0o7775 1 []).cfg.pWrap (getPpu (ppAt 0o7775 1 [])).p 2 = some 0o7777)
    ∧ ∃ a v, PpuStoresAt (getPpu (ppAt 0o7776 1 [])) (.som57 0 0o7777) 2 a v
      ∧ nextAddr (ppAt 0o7776 1 []).cfg.pWrap (getPpu (ppAt 0o7776 1 [])).p 2 = none :=
  ⟨⟨_, _, .som57 0 0o7777, by decide +kernel⟩, _, _, .som57 0 0o7777, by decide +kernel⟩

/-- A jump taken, at the last address too, one not taken, and one not taken that has no next address. -/
theorem witness_PpuJumpInstructions :
    (∃ c t, PpuJumpsIf (getPpu (ppAt 0o100 0 [])) (.zjn04 3) 1 c t ∧ c)
      ∧ (∃ c t, PpuJumpsIf (getPpu (ppAt 0o7777 0 [])) (.zjn04 3) 1 c t ∧ c)
      ∧ (∃ c t, PpuJumpsIf (getPpu (ppAt 0o100 0 [])) (.njn05 3) 1 c t ∧ ¬ c)
      ∧ nextAddr (ppAt 0o100 0 []).cfg.pWrap (getPpu (ppAt 0o100 0 [])).p 1 = some 0o101
      ∧ (∃ c t, PpuJumpsIf (getPpu (ppAt 0o7777 0 [])) (.njn05 3) 1 c t ∧ ¬ c)
      ∧ nextAddr (ppAt 0o7777 0 []).cfg.pWrap (getPpu (ppAt 0o7777 0 [])).p 1 = none :=
  ⟨⟨_, _, .zjn04 3, by decide +kernel⟩, ⟨_, _, .zjn04 3, by decide +kernel⟩, ⟨_, _, .njn05 3, by decide +kernel⟩,
    by decide +kernel, ⟨_, _, .njn05 3, by decide +kernel⟩, by decide +kernel⟩

/-- P one below the end, and at the end. -/
theorem witness_PpuPassesAndStops :
    nextAddr (ppAt 0o7776 0 []).cfg.pWrap (getPpu (ppAt 0o7776 0 [])).p 1 = some 0o7777
      ∧ nextAddr (ppAt 0o7777 0 []).cfg.pWrap (getPpu (ppAt 0o7777 0 [])).p 1 = none
      ∧ ∃ s : State, nextEvent s = .ppu 1 ∧ s.ppus[(1 : Unit16)].stopped = true :=
  ⟨by decide +kernel, by decide +kernel, ppuNext (setPpu State.reset { Ppu.reset with stopped := true }), rfl,
    by decide +kernel⟩

theorem witness_PpuReturnJump :
    nextAddr (ppAt 0o7775 0 []).cfg.pWrap (getPpu (ppAt 0o7775 0 [])).p 2 = some 0o7777
      ∧ nextAddr (ppAt 0o7775 0 []).cfg.pWrap 0o7776 1 = some 0o7777
      ∧ nextAddr (ppAt 0o7776 0 []).cfg.pWrap (getPpu (ppAt 0o7776 0 [])).p 2 = none
      ∧ nextAddr (ppAt 0o7775 0 []).cfg.pWrap 0o7777 1 = none := by decide +kernel

theorem witness_PpuAddressPastTheEnd :
    (0o7775 : Word12).toNat + 2 = 0o7777 ∧ 0o7777 < (0o7776 : Word12).toNat + 2
      ∧ (∃ v, PpuSetsA (getPpu (ppAt 0o7777 0 [])) (.ldn14 0) 1 v) ∧ (ppAt 0o7777 0 []).cfg.pWrap = .stuck
      ∧ 0o7777 < (getPpu (ppAt 0o7777 0 [])).p.toNat + 1 :=
  ⟨by decide, by decide, ⟨_, .ldn14 0⟩, rfl, by decide +kernel⟩

/-- The executing PPU with P at the end of its memory and (A) = a. -/
def atEnd (s : State) (a : Word18) : State := setPpu s { getPpu s with p := 0o7777, a := a }

/-- A word that waits, none, and the MCU's status channel 3. -/
theorem witness_PpuInputToA :
    (2 : Cable).val = (2 : BitVec 6).toNat % 8 ∧ nextAddr inputReady.cfg.pWrap (getPpu inputReady).p 1 = some 0o101
      ∧ ¬ (inputReady.cur = 0 ∧ isStatusChannel inputReady 2 = true) ∧ (getPpu inputReady).inw[(2 : Cable)] = true
      ∧ (getPpu (ppAt 0o100 0 [])).inw[(2 : Cable)] = false
      ∧ nextAddr (atEnd inputReady 0).cfg.pWrap (getPpu (atEnd inputReady 0)).p 1 = none ∧ (getPpu (atEnd inputReady 0)).inw[(2 : Cable)] = true
      ∧ ∃ s : State, s.cur = 0 ∧ isStatusChannel s 3 = true ∧ nextAddr s.cfg.pWrap (getPpu s).p 1 = some 1 :=
  ⟨by decide, by decide +kernel, by decide +kernel, by decide +kernel, by decide +kernel,
    by decide +kernel, by decide +kernel, { State.reset with cur := 0 }, rfl, by decide +kernel, by decide +kernel⟩

theorem witness_PpuOutputsWordAndRecord :
    nextAddr (ppAt 0o100 0 []).cfg.pWrap (getPpu (ppAt 0o100 0 [])).p 1 = some 0o101
      ∧ (getPpu (ppAt 0o100 0 [])).outw[(5 : Cable)] = false ∧ (ppAt 0o100 0 []).cur ≠ 0
      ∧ nextAddr (ppAt 0o7777 0 []).cfg.pWrap (getPpu (ppAt 0o7777 0 [])).p 1 = none
      ∧ (getPpu (ppAt 0o7777 0 [])).outw[(5 : Cable)] = false
      ∧ nextAddr (outwSet 5).cfg.pWrap (getPpu (outwSet 5)).p 1 = some 0o101 ∧ (getPpu (outwSet 5)).outw[(5 : Cable)] = true := by
  decide +kernel

theorem witness_PpuBlockTransfersBegin :
    nextAddr (ppAt 0o7775 0 []).cfg.pWrap (getPpu (ppAt 0o7775 0 [])).p 2 = some 0o7777
      ∧ nextAddr (ppAt 0o7776 0 []).cfg.pWrap (getPpu (ppAt 0o7776 0 [])).p 2 = none ∧ (getPpu (ppAt 0o7776 0 [])).a = 0
      ∧ (getPpu (ppAt 0o7775 1 [])).a ≠ 0 ∧ (getPpu (ppAt 0o7775 0o777776 [])).a ≠ 0o777777
      ∧ (getPpu (ppAt 0o7775 0 [])).a = 0 ∧ (getPpu (ppAt 0o7775 0o777777 [])).a = 0o777777 := by decide +kernel

/-- PPU 1 in a block input on cable 2, or a dead start load, with its flags as given. -/
def blockInput (boot first word record : Bool) : State :=
  setPpu inputReady { getPpu inputReady with
    a := 1, iop := .inBlock 2 first boot
    inw := (Vector.replicate 8 false).set 2 word, inr := (Vector.replicate 8 false).set 2 record }

/-- The first word, a later word, the end by a record, and a wait. -/
theorem witness_PpuBlockInputWord :
    (∀ b f w r : Bool, (getPpu (blockInput b f w r)).iop = .inBlock 2 f b
        ∧ (if b then some 1 else nextAddr (blockInput b f w r).cfg.pWrap (getPpu (blockInput b f w r)).p 2)
          = some (if b then 1 else 0o102))
      ∧ (∀ b : Bool, (getPpu (blockInput b true true true)).inw[(2 : Cable)] = true
        ∧ (getPpu (blockInput b false true false)).inw[(2 : Cable)] = true
        ∧ (getPpu (blockInput b false true false)).inr[(2 : Cable)] = false
        ∧ (getPpu (blockInput b false false true)).inr[(2 : Cable)] = true
        ∧ (getPpu (blockInput b true false false)).inw[(2 : Cable)] = false)
      ∧ ocSub (getPpu (blockInput false false true false)).a 1 = 0
      ∧ (∀ a : Word18, a = 1 ∨ a = 2 → ∀ w r : Bool,
        nextAddr (atEnd (blockInput false false w r) a).cfg.pWrap (getPpu (atEnd (blockInput false false w r) a)).p 2 = none
          ∧ ocSub (getPpu (atEnd (blockInput false false w r) a)).a 1 = a - 1
          ∧ (getPpu (atEnd (blockInput false false w r) a)).iop = .inBlock 2 false false
          ∧ (getPpu (atEnd (blockInput false false w r) a)).inw[(2 : Cable)] = w
          ∧ (getPpu (atEnd (blockInput false false w r) a)).inr[(2 : Cable)] = r) := by
  refine ⟨by decide +kernel, by decide +kernel, by decide +kernel, ?_⟩
  rintro a (rfl | rfl) <;> decide +kernel

/-- PPU 1 in a block output on cable 5, or a dead dump, with its Output Word flag as given. -/
def blockOutput (boot word : Bool) : State :=
  setPpu (ppAt 0o100 2 []) { getPpu (ppAt 0o100 2 []) with
    iop := .outBlock 5 boot, outw := (Vector.replicate 8 false).set 5 word }

theorem witness_PpuBlockOutputWord :
    (∀ b w : Bool, (getPpu (blockOutput b w)).iop = .outBlock 5 b ∧ (blockOutput b w).cur ≠ 0
        ∧ (if b then some 1 else nextAddr (blockOutput b w).cfg.pWrap (getPpu (blockOutput b w)).p 2)
          = some (if b then 1 else 0o102)
        ∧ (getPpu (blockOutput b w)).outw[(5 : Cable)] = w)
      ∧ (∀ a : Word18, a = 1 ∨ a = 2 →
        nextAddr (atEnd (blockOutput false false) a).cfg.pWrap (getPpu (atEnd (blockOutput false false) a)).p 2 = none
          ∧ ocSub (getPpu (atEnd (blockOutput false false) a)).a 1 = a - 1
          ∧ (getPpu (atEnd (blockOutput false false) a)).iop = .outBlock 5 false
          ∧ (getPpu (atEnd (blockOutput false false) a)).outw[(5 : Cable)] = false) :=
  ⟨by decide +kernel, by rintro a (rfl | rfl) <;> decide +kernel⟩

/-! ### A step at the placed word -/

/-- 10 at the place that `withFetchWord` gives it is the next instruction: X1 becomes X2. -/
theorem test_step_runs_placed_cpu_word : xOf (step ((xs 0 5).withFetchWord 15 0o10120)) 1 = some 5 := by decide +kernel

/-- The same of a PPU's 14 (load d). -/
theorem test_step_runs_placed_ppu_word : apOf (step (State.reset.withFetchWord 12 0o1425)) = some (0o25, 1) := by
  decide +kernel

end Sys2Proof.Machine
end

section
/-!
The ones complement adder (00_scope.md R17) at every width: what `ocSub` and `ocAdd` give as unsigned numbers, and that
`ocVal` picks the representative of smallest absolute value of the number modulo 2^w - 1.
-/

namespace Sys2Proof.Machine

section OnesComplement

variable {w : Nat}

/-! ### The results as unsigned numbers -/

/-- The result is the difference of the unsigned numbers, with the end-around borrow where there is one. -/
theorem toNat_ocSub (a b : BitVec w) : (ocSub a b).toNat =
    if b.toNat ≤ a.toNat then a.toNat - b.toNat else a.toNat + (2 ^ w - 1) - b.toNat := by
  have ha := a.isLt
  unfold ocSub
  split
  · rw [BitVec.toNat_ofNat, Nat.mod_eq_of_lt (by omega)]
  · rw [BitVec.toNat_ofNat, Nat.mod_eq_of_lt (by omega)]

/-- Subtracting the complement is adding with an end-around carry: the carry comes already at a sum of 2^w - 1. -/
theorem toNat_ocAdd (a b : BitVec w) : (ocAdd a b).toNat =
    if 2 ^ w - 1 ≤ a.toNat + b.toNat then a.toNat + b.toNat - (2 ^ w - 1) else a.toNat + b.toNat := by
  have hb := b.isLt
  rw [ocAdd, toNat_ocSub, BitVec.toNat_not]
  split_ifs <;> omega

theorem eq_allOnes_iff_toNat (v : BitVec w) : v = BitVec.allOnes w ↔ v.toNat = 2 ^ w - 1 := by
  rw [← BitVec.toNat_inj, BitVec.toNat_allOnes]

/-! ### Sums and differences modulo 2^w - 1 -/

theorem ocSub_modEq (a b : BitVec w) : (ocSub a b).toNat + b.toNat ≡ a.toNat [MOD 2 ^ w - 1] := by
  have hb := b.isLt
  rw [toNat_ocSub]
  split_ifs with hle
  · rw [Nat.sub_add_cancel hle]
  · have hborrow : a.toNat + (2 ^ w - 1) - b.toNat + b.toNat = a.toNat + (2 ^ w - 1) := by omega
    rw [hborrow]
    exact Nat.add_modEq_right

theorem ocAdd_modEq (a b : BitVec w) : (ocAdd a b).toNat ≡ a.toNat + b.toNat [MOD 2 ^ w - 1] := by
  rw [toNat_ocAdd]
  split_ifs with hcarry
  · calc a.toNat + b.toNat - (2 ^ w - 1)
        ≡ a.toNat + b.toNat - (2 ^ w - 1) + (2 ^ w - 1) [MOD 2 ^ w - 1] := Nat.add_modEq_right.symm
      _ = a.toNat + b.toNat := Nat.sub_add_cancel hcarry
  · rfl

/-! ### Where the result is negative zero -/

/-- A borrow leaves the result below 2^w - 1, so only the difference of the largest and the smallest number reaches it. -/
theorem ocSub_eq_allOnes_iff (a b : BitVec w) :
    ocSub a b = BitVec.allOnes w ↔ a = BitVec.allOnes w ∧ b = 0 := by
  have ha := a.isLt
  have hzero : b = 0 ↔ b.toNat = 0 := by rw [← BitVec.toNat_inj]; rfl
  rw [eq_allOnes_iff_toNat, eq_allOnes_iff_toNat, hzero, toNat_ocSub]
  split_ifs <;> omega

theorem ocAdd_eq_allOnes_iff (a b : BitVec w) :
    ocAdd a b = BitVec.allOnes w ↔ a = BitVec.allOnes w ∧ b = BitVec.allOnes w := by
  have hnot : ~~~b = 0 ↔ b = BitVec.allOnes w := by
    rw [← BitVec.not_inj, BitVec.not_not, BitVec.ofNat_eq_ofNat, BitVec.not_zero]
  rw [ocAdd, ocSub_eq_allOnes_iff, hnot]

/-! ### The signed value -/

/-- `val_N` of R17 on the unsigned number: the upper half of the numbers stands for the negative values. -/
theorem ocVal_eq (v : BitVec w) : ocVal v =
    if 2 ^ w ≤ 2 * v.toNat then (v.toNat : Int) - ((2 ^ w - 1 : Nat) : Int) else (v.toNat : Int) := by
  have hv := v.isLt
  rw [ocVal, BitVec.toNat_not]
  simp only [BitVec.msb_eq_true_iff_two_mul_ge, ge_iff_le]
  split_ifs <;> omega

theorem ocVal_modEq (v : BitVec w) : ocVal v ≡ v.toNat [ZMOD (2 ^ w - 1 : Nat)] := by
  rw [ocVal_eq]
  split_ifs
  · exact Int.sub_modulus_modEq_iff.2 .rfl
  · rfl

theorem natAbs_ocVal_lt (hw : 0 < w) (v : BitVec w) : (ocVal v).natAbs < 2 ^ (w - 1) := by
  have hv := v.isLt
  have hpow : 2 ^ w = 2 * 2 ^ (w - 1) := (mul_pow_sub_one hw.ne' 2).symm
  rw [ocVal_eq]
  split_ifs <;> omega

/-- The representable values are 2^w - 1 in number, so a congruence between two of them is an equality. -/
theorem ocVal_eq_of_modEq (hw : 0 < w) {v : BitVec w} {z : Int} (hz : z.natAbs < 2 ^ (w - 1))
    (hmod : (v.toNat : Int) ≡ z [ZMOD (2 ^ w - 1 : Nat)]) : ocVal v = z := by
  have hval := natAbs_ocVal_lt hw v
  have hpow : 2 ^ w = 2 * 2 ^ (w - 1) := (mul_pow_sub_one hw.ne' 2).symm
  have hdvd := ((ocVal_modEq v).trans hmod).dvd
  have hzero : z - ocVal v = 0 := Int.eq_zero_of_abs_lt_dvd hdvd (by rw [Int.abs_eq_natAbs]; omega)
  omega

theorem ocVal_ocAdd (hw : 0 < w) {a b : BitVec w} (hfit : (ocVal a + ocVal b).natAbs < 2 ^ (w - 1)) :
    ocVal (ocAdd a b) = ocVal a + ocVal b := by
  refine ocVal_eq_of_modEq hw hfit ?_
  calc ((ocAdd a b).toNat : Int)
      ≡ ((a.toNat + b.toNat : Nat) : Int) [ZMOD (2 ^ w - 1 : Nat)] := Int.natCast_modEq_iff.2 (ocAdd_modEq a b)
    _ = (a.toNat : Int) + b.toNat := Nat.cast_add _ _
    _ ≡ ocVal a + ocVal b [ZMOD (2 ^ w - 1 : Nat)] := (ocVal_modEq a).symm.add (ocVal_modEq b).symm

theorem ocVal_ocSub (hw : 0 < w) {a b : BitVec w} (hfit : (ocVal a - ocVal b).natAbs < 2 ^ (w - 1)) :
    ocVal (ocSub a b) = ocVal a - ocVal b := by
  refine ocVal_eq_of_modEq hw hfit ?_
  have hsum : ((ocSub a b).toNat : Int) + b.toNat ≡ a.toNat [ZMOD (2 ^ w - 1 : Nat)] :=
    mod_cast Int.natCast_modEq_iff.2 (ocSub_modEq a b)
  calc ((ocSub a b).toNat : Int)
      = (ocSub a b).toNat + b.toNat - b.toNat := (add_sub_cancel_right _ _).symm
    _ ≡ ocVal a - ocVal b [ZMOD (2 ^ w - 1 : Nat)] :=
      (hsum.trans (ocVal_modEq a).symm).sub (ocVal_modEq b).symm

end OnesComplement

/-- Settles O10: the unsigned results give the congruences and the cases of negative zero, and the congruences give the
signed values, which are equal where both sides are representable. -/
theorem onesComplementAdderIsModular : Obligations.OnesComplementAdderIsModular := by
  intro w a b hw
  exact ⟨ocAdd_modEq a b, ocAdd_eq_allOnes_iff a b, ocSub_modEq a b, ocSub_eq_allOnes_iff a b,
    ocVal_ocAdd hw, ocVal_ocSub hw⟩

end Sys2Proof.Machine
end

section
/-!
What an instruction can answer, said once for both instruction sets: one shared operation of the CPU, or a new value of the
executing PPU, with the scanner's cables freed where the MCU changes its selection (60_exceptions.md R452). Whatever every
instruction or every PPU turn keeps is proved from these two relations.
-/

namespace Sys2Proof.Machine

open Sys2Proof

/-! ### The flag of a floating result -/

/-- A floating result sets a condition flag, if any: never a mode flag (R223, R224). -/
def SetsCondition (r : FpResult) : Prop := ∀ f, r.2 = some f → psdBit f < 12

theorem setsCondition_fpInf (neg : Bool) : SetsCondition (fpInf neg) := by rintro f ⟨⟩; decide

theorem setsCondition_fpInd : SetsCondition fpInd := by rintro f ⟨⟩; decide

theorem setsCondition_fpZero (neg : Bool) : SetsCondition (fpZero neg) := by rintro f ⟨⟩; decide

theorem setsCondition_word (w : Word60) : SetsCondition (w, none) := nofun

theorem setsCondition_specialAdd {xj xk : Word60} {r : FpResult} (h : specialAdd xj xk = some r) : SetsCondition r := by
  unfold specialAdd at h
  generalize fpClass xj = cj, fpClass xk = ck at h
  split at h
  · cases h; exact setsCondition_fpInd
  · cases h; exact setsCondition_fpInd
  · split at h <;> cases h
    · exact setsCondition_fpInf _
    · exact setsCondition_fpInd
  · cases h; exact setsCondition_fpInf _
  · cases h; exact setsCondition_fpInf _
  · cases h

theorem setsCondition_specialMul {xj xk : Word60} {r : FpResult} (h : specialMul xj xk = some r) : SetsCondition r := by
  unfold specialMul at h
  generalize fpClass xj = cj, fpClass xk = ck at h
  dsimp only at h
  split at h
  · cases h; exact setsCondition_fpInd
  · cases h; exact setsCondition_fpInd
  · cases h; exact setsCondition_fpInd
  · cases h; exact setsCondition_fpInd
  · cases h; exact setsCondition_fpInf _
  · cases h; exact setsCondition_fpInf _
  · cases h; exact setsCondition_fpZero _
  · cases h; exact setsCondition_fpZero _
  · cases h

theorem setsCondition_specialDiv {xj xk : Word60} {r : FpResult} (h : specialDiv xj xk = some r) : SetsCondition r := by
  unfold specialDiv at h
  generalize fpClass xj = cj, fpClass xk = ck at h
  dsimp only at h
  split at h
  · cases h; exact setsCondition_fpInd
  · cases h; exact setsCondition_fpInd
  · cases h; exact setsCondition_fpInd
  · cases h; exact setsCondition_fpInd
  · cases h; exact setsCondition_fpInf _
  · cases h; exact setsCondition_fpZero _
  · cases h; exact setsCondition_fpZero _
  · cases h; exact setsCondition_fpInf _
  · cases h

theorem setsCondition_ite {c : Prop} [Decidable c] {r q : FpResult} (hr : SetsCondition r) (hq : SetsCondition q) :
    SetsCondition (if c then r else q) := by
  split
  · exact hr
  · exact hq

theorem setsCondition_faddNum (far : Bool) (xj xk k : Word60) (dp rnd : Bool) :
    SetsCondition (faddNum far xj xk k dp rnd) :=
  setsCondition_ite (setsCondition_fpZero _) (setsCondition_ite (setsCondition_word _)
    (setsCondition_ite (setsCondition_word _) (setsCondition_word _)))

theorem setsCondition_fadd (far : Bool) (xj xk : Word60) (sub dp rnd : Bool) : SetsCondition (fadd far xj xk sub dp rnd) := by
  unfold fadd
  dsimp only
  generalize (if sub = true then ~~~xk else xk) = k
  cases h : specialAdd xj k with
  | some r => exact setsCondition_specialAdd h
  | none => exact setsCondition_faddNum far xj xk k dp rnd

theorem setsCondition_fmul (xj xk : Word60) (dp : Bool) (weight : Nat) : SetsCondition (fmul xj xk dp weight) := by
  unfold fmul
  cases h : specialMul xj xk with
  | some r => exact setsCondition_specialMul h
  | none =>
    exact setsCondition_ite (setsCondition_fpInf _) (setsCondition_ite (setsCondition_fpZero _)
      (setsCondition_ite (setsCondition_word _) (setsCondition_word _)))

theorem setsCondition_fdiv (xj xk : Word60) (rnd : Bool) : SetsCondition (fdiv xj xk rnd) := by
  unfold fdiv
  cases h : specialDiv xj xk with
  | some r => exact setsCondition_specialDiv h
  | none =>
    exact setsCondition_ite (setsCondition_fpInf _) (setsCondition_ite (setsCondition_fpZero _)
      (setsCondition_ite setsCondition_fpInd (setsCondition_word _)))

/-! ### The two relations -/

/-- What an instruction of the CPU does: one shared operation. -/
inductive CpuEffect (s : State) : State → Prop
  | pass : CpuEffect s s
  | setsX (i : Reg) (v : Word60) : CpuEffect s (setX s i v)
  | setsB (i : Reg) (v : Word18) : CpuEffect s (setB s i v)
  | setsXB (i j : Reg) (v : Word60) (w : Word18) : CpuEffect s (setB (setX s i v) j w)
  | delivers (i : Reg) (r : FpResult) (hr : SetsCondition r) : CpuEffect s (deliver s i r)
  | setsA (i : Reg) (r : Word18) : CpuEffect s (setAddr s i r)
  | jumps (c : Bool) (t : Word18) : CpuEffect s (jumpIf s c t)
  | returnJump (K : Word18) : CpuEffect s (returnJump s K)
  | errorStop : CpuEffect s (errorExit (setFlag s .programRange) (nextWord s))
  | blockCopy (j : Reg) (K : Word18) (toScm : Bool) : CpuEffect s (blockCopy s j K toScm)
  | exchangeExit (a : ScmAddr) : CpuEffect s (exchangeExit s a)
  | readLcm (j : Reg) (r : BitVec 19) : CpuEffect s (readLcm s j r)
  | writeLcm (j : Reg) (r : BitVec 19) : CpuEffect s (writeLcm s j r)
  | resetInput (c : Unit16) : CpuEffect s (didReset (resetInput s c) .input)
  | resetOutput (c : Unit16) : CpuEffect s (didReset (resetOutput s c) .output)

/-- The memory of `u` is that of `q`, or that with one word written. -/
def Ppu.MemNext (q u : Ppu) : Prop := u.mem = q.mem ∨ ∃ a v : Word12, u.mem = (q.write a v).mem

theorem Ppu.MemNext.same {q u : Ppu} (h : u.mem = q.mem) : q.MemNext u := .inl h

theorem Ppu.MemNext.wrote {q u : Ppu} (a v : Word12) (h : u.mem = (q.write a v).mem) : q.MemNext u := .inr ⟨a, v, h⟩

/-- What an instruction or a word step of a PPU does where it answers: nothing, as it waits, or a new value of that PPU;
after an output the scanner's cables may be freed. -/
inductive PpuEffect (s : State) : State → Prop
  | waits : PpuEffect s s
  | moves (u : Ppu) (hu : (getPpu s).MemNext u) : PpuEffect s (setPpu s u)
  | outputs (u : Ppu) (hu : (getPpu s).MemNext u) : PpuEffect s (afterOutput s (setPpu s u))

/-! ### The shared operations of a PPU -/

section PpuOperations

variable {s t : State} {u : Ppu}

theorem ppuThen_effect {n : Nat} (h : ppuThen s u n = .next t) (hu : (getPpu s).MemNext u) : PpuEffect s t := by
  unfold ppuThen at h
  split at h <;> cases h
  exact .moves _ hu

theorem ppuJump_effect {a : Word12} (h : ppuJump s u a = .next t) (hu : (getPpu s).MemNext u) : PpuEffect s t := by
  cases h
  exact .moves _ hu

theorem ppuJumpIf_effect {c : Bool} {a : Word12} {n : Nat} (h : ppuJumpIf s u c a n = .next t)
    (hu : (getPpu s).MemNext u) : PpuEffect s t := by
  unfold ppuJumpIf at h
  split at h
  · exact ppuJump_effect h hu
  · exact ppuThen_effect h hu

theorem ppuReturnJump_effect {a : Word12} (h : ppuReturnJump s a = .next t) : PpuEffect s t := by
  unfold ppuReturnJump at h
  split at h
  · exact ppuJump_effect h (.wrote _ _ rfl)
  · cases h

theorem blockEntry_effect {m : Word12} {iop : Iop} (h : blockEntry s m iop = .next t) : PpuEffect s t := by
  unfold blockEntry at h
  dsimp only at h
  split at h
  · cases h
  · split at h
    · exact ppuThen_effect h (.same rfl)
    · cases h; exact .moves _ (.same rfl)

theorem inputToA_effect {c : Cable} (h : inputToA s c = .next t) : PpuEffect s t := by
  unfold inputToA at h
  dsimp only at h
  split at h
  · exact ppuThen_effect h (.same rfl)
  · split at h
    · exact ppuThen_effect h (.same rfl)
    · cases h; exact .waits

theorem outputFromA_effect {c : Cable} (h : outputFromA s c = .next t) : PpuEffect s t := by
  unfold outputFromA at h
  dsimp only at h
  split at h
  · cases h; exact .waits
  · split at h <;> cases h
    exact .outputs _ (.same rfl)

/-- The end of a block changes neither memory nor another PPU. -/
theorem blockEnd_next {boot : Bool} (h : blockEnd s u boot = .next t) : ∃ p, t = setPpu s { u with iop := .idle, p := p } := by
  unfold blockEnd at h
  split at h
  · cases h; exact ⟨_, rfl⟩
  · unfold ppuThen at h
    split at h <;> cases h
    exact ⟨_, rfl⟩

theorem blockEnd_effect {boot : Bool} (h : blockEnd s u boot = .next t) (hu : (getPpu s).MemNext u) : PpuEffect s t := by
  obtain ⟨p, rfl⟩ := blockEnd_next h
  exact .moves _ hu

theorem inWordStep_effect {c : Cable} {first boot : Bool} (h : inWordStep s c first boot = .next t) : PpuEffect s t := by
  unfold inWordStep at h
  dsimp only at h
  split at h
  · exact blockEnd_effect h (.wrote _ _ rfl)
  · split at h
    · have hw : (getPpu s).MemNext { ((getPpu s).sampled c).write (getPpu s).q (rxLines s (.ppu s.cur c)) with
          a := ocSub (getPpu s).a 1, q := ocAdd (getPpu s).q 1 } := .wrote _ _ rfl
      split at h
      · exact blockEnd_effect h hw
      · cases h; exact .moves _ hw
    · cases h; exact .waits

theorem outWordStep_effect {c : Cable} {boot : Bool} (h : outWordStep s c boot = .next t) : PpuEffect s t := by
  unfold outWordStep at h
  dsimp only at h
  split at h
  · cases h; exact .waits
  · split at h
    · rename_i t' ht
      cases h
      split at ht
      · obtain ⟨p, rfl⟩ := blockEnd_next ht
        exact .outputs _ (.same rfl)
      · cases ht; exact .outputs _ (.same rfl)
    · rename_i hn
      exact absurd h (hn t)

end PpuOperations

/-! ### Every instruction -/

/-- What instruction `i` answers in `s`, by the processor that its encoding says it is for. -/
inductive Answers (s : State) (i : Instr) : Prop
  | cpu (p : Parcel) (q : Option Parcel) (t : State) (he : encode i = .cpu p q) (hx : exec i s = .next t) (ht : CpuEffect s t)
  | ppu (w : Word12) (m : Option Word12) (he : encode i = .ppu w m) (ht : ∀ t, exec i s = .next t → PpuEffect s t)

theorem Answers.ofCpu {s t : State} {i : Instr} {p : Parcel} {q : Option Parcel} (he : encode i = .cpu p q)
    (hx : exec i s = .next t) (ht : CpuEffect s t) : Answers s i := .cpu p q t he hx ht

theorem Answers.ofPpuThen {s : State} {i : Instr} {w : Word12} {m : Option Word12} {u : Ppu} {n : Nat}
    (he : encode i = .ppu w m) (hx : exec i s = ppuThen s u n) (hu : (getPpu s).MemNext u) : Answers s i :=
  .ppu w m he fun _ h => ppuThen_effect (hx ▸ h) hu

theorem Answers.ofPpuJumpIf {s : State} {i : Instr} {w : Word12} {m : Option Word12} {c : Bool} {a : Word12} {n : Nat}
    (he : encode i = .ppu w m) (hx : exec i s = ppuJumpIf s (getPpu s) c a n) : Answers s i :=
  .ppu w m he fun _ h => ppuJumpIf_effect (hx ▸ h) (.same rfl)

/-- The meaning of every instruction is one shared operation (`exec`, constructor by constructor). -/
theorem exec_answers (s : State) (i : Instr) : Answers s i := by
  cases i with
  | es00 => exact .ofCpu rfl rfl .errorStop
  | rj010 K => exact .ofCpu rfl rfl (.returnJump _)
  | rl011 j K | wl012 j K => exact .ofCpu rfl rfl (.blockCopy _ _ _)
  | mj013Nea => exact .ofCpu rfl rfl (.exchangeExit _)
  | mj013Bk j K => exact .ofCpu rfl rfl (.exchangeExit _)
  | rx014 j k => exact .ofCpu rfl rfl (.readLcm _ _)
  | wx015 j k => exact .ofCpu rfl rfl (.writeLcm _ _)
  | ri0160 k =>
    cases h : resetActs s (channelOf s k)
    · exact .ofCpu rfl (t := s) (by simp [exec, execRi0160, h]) .pass
    · exact .ofCpu rfl (by simp only [exec, execRi0160, h, if_true]) (.resetInput (channelOf s k))
  | ro0170 k =>
    cases h : resetActs s (channelOf s k)
    · exact .ofCpu rfl (t := s) (by simp [exec, execRo0170, h]) .pass
    · exact .ofCpu rfl (by simp only [exec, execRo0170, h, if_true]) (.resetOutput (channelOf s k))
  | ib016 j k | ob017 j k => exact .ofCpu rfl rfl (.setsB _ _)
  | jp02 i K => exact .ofCpu rfl rfl (.jumps true _)
  | zr030 j K | nz031 j K | pl032 j K | ng033 j K | ir034 j K | or035 j K | df036 j K | id037 j K | eq04 i j K | ne05 i j K
  | ge06 i j K | lt07 i j K => exact .ofCpu rfl rfl (.jumps _ _)
  | bx10 i j | bx11 i j k | bx12 i j k | bx13 i j k | bx14 i k | bx15 i j k | bx16 i j k | bx17 i j k | lx20 i jk | ax21 i jk
  | lx22 i j k | ax23 i j k | px27 i j k | ix36 i j k | ix37 i j k | mx43 i jk | cx47 i k =>
    exact .ofCpu rfl rfl (.setsX _ _)
  | nx24 i j k | zx25 i j k | ux26 i j k => exact .ofCpu rfl rfl (.setsXB _ _ _ _)
  | fx30 i j k | fx31 i j k | dx32 i j k | dx33 i j k | rx34 i j k | rx35 i j k =>
    exact .ofCpu rfl rfl (.delivers _ _ (setsCondition_fadd _ _ _ _ _ _))
  | fx40 i j k | rx41 i j k | dx42 i j k => exact .ofCpu rfl rfl (.delivers _ _ (setsCondition_fmul _ _ _ _))
  | fx44 i j k | rx45 i j k => exact .ofCpu rfl rfl (.delivers _ _ (setsCondition_fdiv _ _ _))
  | no46 => exact .ofCpu rfl rfl .pass
  | sa50 i j K | sa51 i j K | sa52 i j K | sa53 i j k | sa54 i j k | sa55 i j k | sa56 i j k | sa57 i j k =>
    exact .ofCpu rfl rfl (.setsA _ _)
  | sb60 i j K | sb61 i j K | sb62 i j K | sb63 i j k | sb64 i j k | sb65 i j k | sb66 i j k | sb67 i j k =>
    exact .ofCpu rfl rfl (.setsB _ _)
  | sx70 i j K | sx71 i j K | sx72 i j K | sx73 i j k | sx74 i j k | sx75 i j k | sx76 i j k | sx77 i j k =>
    exact .ofCpu rfl rfl (.setsX _ _)
  | esn00 | esn77 => exact .ppu _ _ rfl fun t h => by cases h; exact .moves _ (.same rfl)
  | ljm01 d m => exact .ppu _ _ rfl fun t h => ppuJump_effect h (.same rfl)
  | ujn03 d => exact .ppu _ _ rfl fun t h => ppuJump_effect h (.same rfl)
  | rjm02 d m => exact .ppu _ _ rfl fun t h => ppuReturnJump_effect h
  | zjn04 d | njn05 d | pjn06 d | mjn07 d | fim60 d m | eim61 d m | irm62 d m | nim63 d m | fom64 d m | eom65 d m
  | orm66 d m | nom67 d m => exact .ofPpuJumpIf rfl rfl
  | shn10 d | lmn11 d | lpn12 d | scn13 d | ldn14 d | lcn15 d | adn16 d | sbn17 d | ldc20 d m | adc21 d m | lpc22 d m
  | lmc23 d m | psn24 | pass25 | pass26 | pass27 | pass75 | pass76 | ldd30 d | add31 d | sbd32 d | lmd33 d | ldi40 d | adi41 d
  | sbi42 d | lmi43 d | ldm50 d m | adm51 d m | sbm52 d m | lmm53 d m => exact .ofPpuThen rfl rfl (.same rfl)
  | std34 d | rad35 d | aod36 d | sod37 d | sti44 d | rai45 d | aoi46 d | soi47 d | stm54 d m | ram55 d m | aom56 d m
  | som57 d m => exact .ofPpuThen rfl rfl (.wrote _ _ rfl)
  | ian70 d => exact .ppu _ _ rfl fun t h => inputToA_effect h
  | iam71 d m | oam73 d m => exact .ppu _ _ rfl fun t h => blockEntry_effect h
  | oan72 d => exact .ppu _ _ rfl fun t h => outputFromA_effect h
  | rfn74 d => exact .ppu _ _ rfl fun t h => ppuThen_effect h (.same rfl)

theorem exec_cpu_effect {s t : State} {i : Instr} {p : Parcel} {q : Option Parcel} (he : encode i = .cpu p q)
    (h : exec i s = .next t) : CpuEffect s t := by
  cases exec_answers s i with
  | cpu _ _ u _ hx hu => rw [hx] at h; cases h; exact hu
  | ppu w m hw _ => rw [hw] at he; cases he

theorem exec_ppu_effect {s t : State} {i : Instr} {w : Word12} {m : Option Word12} (he : encode i = .ppu w m)
    (h : exec i s = .next t) : PpuEffect s t := by
  cases exec_answers s i with
  | cpu p q _ hp _ _ => rw [hp] at he; cases he
  | ppu _ _ _ ht => exact ht t h

/-- An answer of `exec` is of one of the two kinds. -/
theorem exec_effect {s t : State} {i : Instr} (h : exec i s = .next t) : CpuEffect s t ∨ PpuEffect s t := by
  cases exec_answers s i with
  | cpu _ _ _ he _ _ => exact .inl (exec_cpu_effect he h)
  | ppu _ _ _ ht => exact .inr (ht t h)

/-! ### A PPU's step -/

/-- The PPU's decoder names PPU instructions only. -/
theorem encode_decodePpu (w m : Word12) : ∃ w' m', encode (decodePpu w m) = .ppu w' m' := by
  unfold decodePpu
  split <;> exact ⟨_, _, rfl⟩

theorem encode_ppuInstr {s : State} {i : Instr} (h : ppuInstr s = some i) : ∃ w m, encode i = .ppu w m := by
  unfold ppuInstr Ppu.instr at h
  dsimp only at h
  split at h
  · obtain ⟨a, _, rfl⟩ := Option.map_eq_some_iff.1 h
    exact encode_decodePpu _ _
  · cases h
    exact encode_decodePpu _ _

/-- What a PPU's step answers, where it does: a word step, or an instruction after its word has entered fd. -/
theorem ppuStep_effect {s t : State} (h : ppuStep s = .next t) : PpuEffect s t ∨ PpuEffect (ppuBegin s) t := by
  unfold ppuStep at h
  split at h
  · split at h
    · rename_i i hi
      obtain ⟨w, m, he⟩ := encode_ppuInstr hi
      exact .inr (exec_ppu_effect he h)
    · cases h
  · exact .inl (inWordStep_effect h)
  · exact .inl (outWordStep_effect h)

end Sys2Proof.Machine
end

section
/-!
The invariant of every state (10_state.md R24, R27, R46; 20_memory.md R72, R80, R88): it holds at reset, and every step of
every agent keeps it.
-/

namespace Sys2Proof.Machine

open Sys2Proof

/-- A memory that lists nothing. -/
theorem memOk_nil {w : Nat} (n : Nat) : MemOk n ([] : Mem w) := ⟨memWf_nil, nofun⟩

theorem cpuOk_reset (cfg : Config) : CpuOk cfg Cpu.reset where
  b0 := rfl
  stack12 := Nat.zero_le _
  recent2 := Nat.zero_le _
  inField := nofun
  slipBound := nofun
  copyIn := nofun
  readFirst := nofun

theorem chanOk_reset : ChanOk ⟨MuxIn.reset, MuxOut.reset⟩ where
  asm5 := Nat.zero_le _
  dis5 := Nat.zero_le _
  ranks3 := Nat.zero_le _

/-- Settles O1: nothing is listed in a memory, and every channel and the CPU are as at reset. -/
theorem resetMeetsInvariant : Obligations.ResetMeetsInvariant where
  scm := memOk_nil _
  lcm := memOk_nil _
  ppu u := by
    have hu : State.reset.ppus[u] = Ppu.reset := by simp [State.reset]
    rw [hu]
    exact memOk_nil _
  cpu := cpuOk_reset _
  mux c := by
    have hc : State.reset.mux[c] = ⟨MuxIn.reset, MuxOut.reset⟩ := by simp [State.reset]
    rw [hc]
    exact chanOk_reset

/-! ### Instructions and word steps -/

theorem CpuEffect.inv {s t : State} (he : CpuEffect s t) (h : Inv s) : Inv t := by
  cases he with
  | pass => exact h
  | setsX i v => exact setX_inv h i v
  | setsB i v => exact setB_inv h i v
  | setsXB i j v w => exact setB_inv (setX_inv h i v) j w
  | delivers i r => exact deliver_inv h i r
  | setsA i r => exact setAddr_inv h i r
  | jumps c t => exact jumpIf_inv h c t
  | returnJump K => exact returnJump_inv h K
  | errorStop => exact errorExit_inv (setFlag_inv h _) _
  | blockCopy j K toScm => exact blockCopy_inv h j K toScm
  | exchangeExit a => exact exchangeExit_inv h a
  | readLcm j r => exact readLcm_inv h j r
  | writeLcm j r => exact writeLcm_inv h j r
  | resetInput c => exact didReset_inv (resetInput_inv h c) _
  | resetOutput c => exact didReset_inv (resetOutput_inv h c) _

theorem Ppu.MemNext.memOk {q u : Ppu} (hu : q.MemNext u) (h : MemOk 4096 q.mem) : MemOk 4096 u.mem := by
  rcases hu with e | ⟨a, v, e⟩ <;> rw [e]
  · exact h
  · exact memOk_ppuWrite h a v

theorem PpuEffect.inv {s t : State} (he : PpuEffect s t) (h : Inv s) : Inv t := by
  cases he with
  | waits => exact h
  | moves u hu => exact setPpu_inv h u (hu.memOk (memOk_getPpu h))
  | outputs u hu => exact afterOutput_inv s (setPpu_inv h u (hu.memOk (memOk_getPpu h)))

theorem exec_inv {s t : State} {i : Instr} (h : Inv s) (e : exec i s = .next t) : Inv t :=
  (exec_effect e).elim (·.inv h) (·.inv h)

/-! ### Turns -/

/-- A next state is what `onNext` was applied to. -/
theorem onNext_next {r : Outcome} {f : State → State} {t : State} (h : onNext r f = .next t) : ∃ u, r = .next u ∧ t = f u := by
  unfold onNext at h
  split at h <;> cases h
  exact ⟨_, rfl, rfl⟩

theorem runParcel_inv {s t : State} (h : Inv s) (e : runParcel s = .next t) : Inv t := by
  obtain ⟨u, hu, rfl⟩ := onNext_next e
  exact finishInstr_inv (exec_inv (issue_inv h _) hu) _

theorem runNewWord_inv {s t : State} (h : Inv s) (e : runNewWord s = .next t) : Inv t := by
  unfold runNewWord at e
  split at e
  · exact runParcel_inv h e
  · cases e; exact h

theorem cpuMove_inv {s t : State} (h : Inv s) (e : cpuMove s = .next t) : Inv t := by
  unfold cpuMove at e
  split at e
  case h_1 => cases e; exact exchangeJump_inv h _ _ _
  case h_2 => exact runNewWord_inv (makeCurrent_inv h _) e
  case h_3 => exact runNewWord_inv (makeCurrent_inv h _) e
  case h_4 => exact runParcel_inv h e
  case h_5 c hc => cases e; exact copyTurn_inv h hc
  case h_6 x hx => cases e; exact exchangeStep_inv h hx

theorem cpuTurn_inv {s t : State} (h : Inv s) (e : cpuTurn s = .next t) : Inv t := by
  unfold cpuTurn at e
  split at e
  · cases e; exact h
  · split at e
    · cases e; exact cpuReceive_inv h
    · exact cpuMove_inv (cpuServed_inv h) e

theorem ppuBegin_inv {s : State} (h : Inv s) : Inv (ppuBegin s) := setPpu_inv h _ (memOk_getPpu h)

theorem ppuStep_inv {s t : State} (h : Inv s) (e : ppuStep s = .next t) : Inv t :=
  (ppuStep_effect e).elim (·.inv h) (·.inv (ppuBegin_inv h))

theorem ppuTurn_inv {s t : State} (h : Inv s) {u : Unit16} (e : ppuTurn s u = .next t) : Inv t := by
  unfold ppuTurn at e
  split at e
  · have k : Inv { s with cur := u } := ⟨h.scm, h.lcm, h.ppu, h.cpu, h.mux⟩
    exact ppuStep_inv k e
  · cases e; exact h

theorem turn_inv {s t : State} (h : Inv s) {ev : Event} (e : turn s ev = .next t) : Inv t := by
  unfold turn at e
  split at e
  · exact cpuTurn_inv h e
  · exact ppuTurn_inv h e
  · cases e; exact agentStep_inv h _

theorem popEvent_inv {s : State} (h : Inv s) : Inv (popEvent s) := ⟨h.scm, h.lcm, h.ppu, h.cpu, h.mux⟩

theorem endStep_inv {s : State} (h : Inv s) : Inv (endStep s) := by
  have k := settle_inv h
  exact ⟨k.scm, k.lcm, k.ppu, k.cpu, k.mux⟩

/-- Settles O2: the turn of the agent that moves keeps the invariant, and so do the levels at the end of the step. -/
theorem everyStepKeepsInvariant : Obligations.EveryStepKeepsInvariant := by
  intro s t h e
  obtain ⟨u, hu, rfl⟩ := onNext_next e
  exact endStep_inv (turn_inv (popEvent_inv h) hu)

end Sys2Proof.Machine
end

section
/-!
What the operations of the CPU leave unchanged: everything of the PPUs and the clock, the registers of the exchange package
that only an exchange jump may change (10_state.md R28 to R36), and, where it is an instruction that runs, P.
-/

namespace Sys2Proof.Machine

open Sys2Proof

/-! ### The control registers -/

theorem ControlKept.refl (c : Cpu) : ControlKept c c :=
  ⟨rfl, rfl, rfl, rfl, rfl, rfl, rfl, fun _ _ => rfl, fun _ h => h⟩

theorem ControlKept.trans {c d e : Cpu} (h : ControlKept c d) (k : ControlKept d e) : ControlKept c e := by
  obtain ⟨h1, h2, h3, h4, h5, h6, h7, hm, hf⟩ := h
  obtain ⟨k1, k2, k3, k4, k5, k6, k7, km, kf⟩ := k
  exact ⟨k1.trans h1, k2.trans h2, k3.trans h3, k4.trans h4, k5.trans h5, k6.trans h6, k7.trans h7,
    fun n hn => (km n hn).trans (hm n hn), fun n hn => kf n (hf n hn)⟩

/-- Setting a condition flag clears no flag and leaves the mode flags. -/
theorem ControlKept.setCondition (c : Cpu) {f : PsdFlag} (hf : psdBit f < 12) :
    ControlKept c { c with psd := c.psd ||| BitVec.twoPow 18 (psdBit f) } := by
  refine ⟨rfl, rfl, rfl, rfl, rfl, rfl, rfl, fun n hn => ?_, fun n hn => ?_⟩
  · have hne : ¬ n = psdBit f := by omega
    simp [BitVec.getLsbD_twoPow, eq_comm, hne]
  · simp [hn]

/-! ### Three frames, each within the one before -/

/-- The clock and its request: the count is the same, and no request has been set. -/
structure SameClock (s t : State) : Prop where
  clk : t.clk = s.clk
  rtc : t.rtcFlag = true → s.rtcFlag = true

/-- What the CPU leaves alone in any step of its own. -/
structure LeavesOthers (s t : State) : Prop extends SameClock s t where
  ppus : t.ppus = s.ppus
  cur : t.cur = s.cur
  cfg : t.cfg = s.cfg

/-- What it leaves alone in any step but the load of an exchange jump. -/
structure LeavesControl (s t : State) : Prop extends LeavesOthers s t where
  control : ControlKept s.cpu t.cpu

/-- What an instruction leaves alone. -/
structure LeavesP (s t : State) : Prop extends LeavesControl s t where
  p : t.cpu.p = s.cpu.p

theorem SameClock.trans {s t u : State} (h : SameClock s t) (k : SameClock t u) : SameClock s u :=
  ⟨k.clk.trans h.clk, fun r => h.rtc (k.rtc r)⟩

theorem LeavesOthers.trans {s t u : State} (h : LeavesOthers s t) (k : LeavesOthers t u) : LeavesOthers s u :=
  ⟨h.toSameClock.trans k.toSameClock, k.ppus.trans h.ppus, k.cur.trans h.cur, k.cfg.trans h.cfg⟩

theorem LeavesControl.trans {s t u : State} (h : LeavesControl s t) (k : LeavesControl t u) : LeavesControl s u :=
  ⟨h.toLeavesOthers.trans k.toLeavesOthers, h.control.trans k.control⟩

theorem LeavesP.trans {s t u : State} (h : LeavesP s t) (k : LeavesP t u) : LeavesP s u :=
  ⟨h.toLeavesControl.trans k.toLeavesControl, k.p.trans h.p⟩

/-- What `LeavesP` looks at. -/
def State.leaves (s : State) :=
  (s.clk, s.rtcFlag, s.ppus, s.cur, s.cfg, s.cpu.ras, s.cpu.fls, s.cpu.ral, s.cpu.fll, s.cpu.nea, s.cpu.eea, s.cpu.bpa,
    s.cpu.psd, s.cpu.p)

/-- An operation on the fields that `LeavesP` does not look at. -/
theorem LeavesP.of_eq {s t : State} (h : t.leaves = s.leaves) : LeavesP s t := by
  simp only [State.leaves, Prod.mk.injEq] at h
  obtain ⟨h1, h2, h3, h4, h5, h6, h7, h8, h9, h10, h11, h12, h13, h14⟩ := h
  exact ⟨⟨⟨⟨h1, fun r => h2 ▸ r⟩, h3, h4, h5⟩, h6, h7, h8, h9, h10, h11, h12, fun _ _ => by rw [h13],
    fun _ r => by rw [h13]; exact r⟩, h14⟩

theorem LeavesP.refl (s : State) : LeavesP s s := .of_eq rfl

/-- After an operation that does no more, `LeavesP` still holds. -/
theorem LeavesP.and_then {s t u : State} (h : LeavesP s t) (e : u.leaves = t.leaves) : LeavesP s u := h.trans (.of_eq e)

/-! ### Flags -/

section Operations

variable {s t : State}

theorem setFlag_leavesP (s : State) {f : PsdFlag} (hf : psdBit f < 12) : LeavesP s (setFlag s f) :=
  ⟨⟨⟨⟨rfl, id⟩, rfl, rfl, rfl⟩, .setCondition s.cpu hf⟩, rfl⟩

theorem setFlagIf_leavesP (s : State) (c : Bool) {f : PsdFlag} (hf : psdBit f < 12) : LeavesP s (setFlagIf s c f) := by
  unfold setFlagIf
  split
  · exact setFlag_leavesP s hf
  · exact .refl s

theorem raiseWith_leavesP (s : State) {f : PsdFlag} (n : Nat) (hf : psdBit f < 12) : LeavesP s (raiseWith s f n) := by
  rw [(raiseWith_spec s f n).1]
  exact (setFlag_leavesP s hf).and_then rfl

theorem raiseLate_leavesP (s : State) {f : PsdFlag} (hf : psdBit f < 12) : LeavesP s (raiseLate s f) :=
  raiseWith_leavesP s _ hf

theorem raiseNow_leavesP (s : State) {f : PsdFlag} (hf : psdBit f < 12) : LeavesP s (raiseNow s f) := raiseWith_leavesP s 0 hf

/-! ### References -/

theorem chargeScmParity_leavesP (s : State) : LeavesP s (chargeScmParity s) := by
  unfold chargeScmParity
  split
  · split
    · exact .of_eq rfl
    · exact raiseLate_leavesP s (by decide)
  · exact raiseLate_leavesP s (by decide)

theorem latchScm_leavesP (s : State) (e : ScmAddr × BitVec 5) : LeavesP s (latchScm s e) := by
  unfold latchScm
  split <;> exact .of_eq rfl

theorem latchLcm_leavesP (s : State) (e : LcmAddr × BitVec 4) : LeavesP s (latchLcm s e) := by
  unfold latchLcm
  split <;> exact .of_eq rfl

theorem scmDetect_leavesP (s : State) (a : ScmAddr) : LeavesP s (scmDetect s a) := by
  unfold scmDetect
  split
  · exact .refl s
  · rename_i e _
    have hbad : LeavesP s { s with scmBad := s.scmBad.erase e } := .of_eq rfl
    exact hbad.trans ((chargeScmParity_leavesP _).trans (latchScm_leavesP _ _))

theorem lcmDetect_leavesP (s : State) (a : LcmAddr) : LeavesP s (lcmDetect s a) := by
  unfold lcmDetect
  split
  · exact .refl s
  · rename_i e _
    have hbad : LeavesP s { s with lcmBad := s.lcmBad.erase e } := .of_eq rfl
    exact hbad.trans ((raiseLate_leavesP _ (by decide)).trans (latchLcm_leavesP _ _))

theorem scmPut_leavesP (s : State) (a : ScmAddr) (v : Word60) : LeavesP s (scmPut s a v) := by
  rw [(scmPut_spec s a v).1]
  exact .of_eq rfl

theorem lcmPut_leavesP (s : State) (a : LcmAddr) (v : Word60) : LeavesP s (lcmPut s a v) := by
  rw [(lcmPut_spec s a v).1]
  exact .of_eq rfl

theorem scmForget_leavesP (s : State) (a : ScmAddr) : LeavesP s (scmForget s a) := .of_eq rfl

theorem scmStore_leavesP (s : State) (a : ScmAddr) (v : Word60) : LeavesP s (scmStore s a v) :=
  ((scmPut_leavesP s a v).trans (scmForget_leavesP _ a)).trans (scmDetect_leavesP _ a)

theorem beforeRange_leavesP (s : State) : LeavesP s (beforeRange s) := by
  rw [(beforeRange_spec s).1]
  exact .of_eq rfl

theorem rangeLate_leavesP (s : State) : LeavesP s (rangeLate s) :=
  (beforeRange_leavesP s).trans (raiseLate_leavesP _ (by decide))

theorem rangeNow_leavesP (s : State) : LeavesP s (rangeNow s) := (beforeRange_leavesP s).trans (setFlag_leavesP _ (by decide))

/-! ### Instructions -/

theorem setX_leavesP (s : State) (i : Reg) (v : Word60) : LeavesP s (setX s i v) := .of_eq rfl

theorem setB_leavesP (s : State) (i : Reg) (v : Word18) : LeavesP s (setB s i v) := by
  unfold setB
  split <;> exact .of_eq rfl

theorem deliver_leavesP (s : State) (i : Reg) {r : FpResult} (hr : SetsCondition r) : LeavesP s (deliver s i r) := by
  have hx := setX_leavesP s i r.1
  unfold deliver
  dsimp only
  split
  · rename_i f hf
    exact hx.trans (raiseLate_leavesP _ (hr f hf))
  · exact hx

theorem loadX_leavesP (s : State) (i : Reg) (r : Word18) : LeavesP s (loadX s i r) := by
  have hx := setX_leavesP s i
  unfold loadX
  dsimp only
  split
  · exact ((hx _).trans (scmDetect_leavesP _ _)).and_then rfl
  · split
    · exact (hx 0).trans (rangeLate_leavesP _)
    · exact ((hx _).trans (scmDetect_leavesP _ _)).trans (rangeLate_leavesP _)

theorem storeX_leavesP (s : State) (i : Reg) (r : Word18) : LeavesP s (storeX s i r) := by
  unfold storeX
  dsimp only
  split
  · split
    · exact .refl s
    · exact ((scmPut_leavesP s _ _).trans (scmDetect_leavesP _ _)).and_then rfl
  · exact rangeLate_leavesP s

theorem setAddr_leavesP (s : State) (i : Reg) (r : Word18) : LeavesP s (setAddr s i r) := by
  have ha : LeavesP s (setAReg s i r) := .of_eq rfl
  unfold setAddr
  dsimp only
  split
  · exact ha
  · split
    · exact ha.trans (loadX_leavesP _ _ _)
    · exact ha.trans (storeX_leavesP _ _ _)

theorem jumpIf_leavesP (s : State) (c : Bool) (t : Word18) : LeavesP s (jumpIf s c t) := by
  unfold jumpIf
  split <;> exact .of_eq rfl

theorem exchangeJump_leavesP (s : State) (a : ScmAddr) (p : Word18) (who : Initiator) : LeavesP s (exchangeJump s a p who) :=
  .of_eq rfl

theorem errorExit_leavesP (s : State) (p : Word18) : LeavesP s (errorExit s p) := .of_eq rfl

theorem returnStore_leavesP (s : State) (K : Word18) : LeavesP s (returnStore s K) := by
  unfold returnStore
  split
  · exact rangeNow_leavesP s
  · split
    · exact .refl s
    · exact scmStore_leavesP s _ _

theorem returnJump_leavesP (s : State) (K : Word18) : LeavesP s (returnJump s K) := by
  have ht := ((returnStore_leavesP s K).trans (setFlagIf_leavesP _ (K == 0) (f := .programRange) (by decide))).trans
    (setFlagIf_leavesP _ (K == s.cpu.bpa) (f := .breakpoint) (by decide))
  unfold returnJump
  dsimp only
  split <;> exact ht.and_then rfl

theorem blockCopy_leavesP (s : State) (j : Reg) (K : Word18) (toScm : Bool) : LeavesP s (blockCopy s j K toScm) := by
  have raised (t : State) (b : Bool) {f : PsdFlag} (hf : psdBit f < 12) :
      LeavesP t (if b = true then raiseNow t f else t) := by
    split
    · exact raiseNow_leavesP t hf
    · exact .refl t
  unfold blockCopy
  dsimp only
  split
  · exact .refl s
  · split
    · exact (raised s _ (by decide)).trans (raised _ _ (by decide))
    · exact .of_eq rfl

theorem readLcm_leavesP (s : State) (j : Reg) (r : BitVec 19) : LeavesP s (readLcm s j r) := by
  unfold readLcm
  dsimp only
  split
  · exact (setX_leavesP s j _).trans (lcmDetect_leavesP _ _)
  · have hr := raiseLate_leavesP s (f := .lcmDirectRange) (by decide)
    exact (hr.trans (setX_leavesP _ j _)).trans (lcmDetect_leavesP _ _)

theorem writeLcm_leavesP (s : State) (j : Reg) (r : BitVec 19) : LeavesP s (writeLcm s j r) := by
  unfold writeLcm
  split
  · exact lcmPut_leavesP s _ _
  · exact raiseLate_leavesP s (by decide)

theorem CpuEffect.leavesP (h : CpuEffect s t) : LeavesP s t := by
  cases h with
  | pass => exact .refl s
  | setsX i v => exact .of_eq rfl
  | setsB i v => exact setB_leavesP s i v
  | setsXB i j v w => exact (setX_leavesP s i v).trans (setB_leavesP _ j w)
  | delivers i r hr => exact deliver_leavesP s i hr
  | setsA i r => exact setAddr_leavesP s i r
  | jumps c t => exact jumpIf_leavesP s c t
  | returnJump K => exact returnJump_leavesP s K
  | errorStop => exact (setFlag_leavesP s (by decide)).trans (errorExit_leavesP _ _)
  | blockCopy j K toScm => exact blockCopy_leavesP s j K toScm
  | exchangeExit a => exact .of_eq rfl
  | readLcm j r => exact readLcm_leavesP s j r
  | writeLcm j r => exact writeLcm_leavesP s j r
  | resetInput c => exact .of_eq rfl
  | resetOutput c => exact .of_eq rfl

/-! ### Instruction words -/

theorem iwsLoad_leavesP (s : State) (who : Nat) (w : Word18) : LeavesP s (iwsLoad s who w) :=
  (scmDetect_leavesP s _).and_then rfl

theorem iwsAhead_leavesP (s : State) (who : Nat) (w : Word18) : LeavesP s (iwsAhead s who w) := by
  unfold iwsAhead
  split
  · exact iwsLoad_leavesP s who w
  · exact .refl s

theorem fetchStack_leavesP (s : State) (w : Word18) : LeavesP s (fetchStack s w) := by
  unfold fetchStack
  dsimp only
  split
  · exact ((iwsLoad_leavesP s 1 w).trans (iwsLoad_leavesP _ 2 _)).trans (iwsAhead_leavesP _ 3 _)
  · exact (iwsAhead_leavesP s 2 _).trans (iwsAhead_leavesP _ 3 _)

theorem addressTests_leavesP (s : State) (w : Word18) : LeavesP s (addressTests s w) := by
  have hr : LeavesP s (if s.cpu.fls ≤ w then rangeNow s else s) := by
    split
    · exact rangeNow_leavesP s
    · exact .refl s
  exact (hr.trans (setFlagIf_leavesP _ _ (by decide))).trans (setFlagIf_leavesP _ _ (by decide))

/-- Making the word at P current leaves P. -/
theorem loadWord_leavesP (s : State) : LeavesP s (loadWord s s.cpu.p) := by
  have h := fetchStack_leavesP s s.cpu.p
  refine h.and_then ?_
  simp only [State.leaves, loadWord, h.p]

theorem makeCurrent_leavesP (s : State) (isNew : Bool) : LeavesP s (makeCurrent s isNew) := by
  unfold makeCurrent
  dsimp only
  split
  · exact ((loadWord_leavesP s).trans (setFlag_leavesP _ (f := .breakpoint) (by decide))).and_then rfl
  · split
    · exact (addressTests_leavesP s _).trans (errorExit_leavesP _ _)
    · exact (loadWord_leavesP s).and_then rfl

theorem issue_leavesP (s : State) (i : Instr) : LeavesP s (issue s i) := by
  have hn : LeavesP s (noteIssue s i) := .of_eq rfl
  unfold issue
  split
  · exact hn.trans (raiseNow_leavesP _ (by decide))
  · exact hn

/-! ### The end of a word -/

theorem wordEndInterrupts_leavesControl (s : State) (next : Word18) : LeavesControl s (wordEndInterrupts s next) := by
  unfold wordEndInterrupts
  split
  · exact ⟨⟨⟨rfl, nofun⟩, rfl, rfl, rfl⟩, .refl s.cpu⟩
  · unfold acceptIo
    dsimp only
    split <;> exact ⟨⟨⟨rfl, id⟩, rfl, rfl, rfl⟩, .refl s.cpu⟩
  · exact ⟨⟨⟨rfl, id⟩, rfl, rfl, rfl⟩, .refl s.cpu⟩

theorem endTests_leavesControl (s : State) (next : Word18) : LeavesControl s (endTests s next) := by
  unfold endTests
  split
  · exact ((setFlag_leavesP s (by decide)).trans (errorExit_leavesP _ _)).toLeavesControl
  · split
    · split
      · exact (errorExit_leavesP s next).toLeavesControl
      · exact (errorExit_leavesP s next).toLeavesControl
      · rename_i n _
        have hs : LeavesP s { s with cpu := { s.cpu with slip := some n } } := .of_eq rfl
        exact hs.toLeavesControl.trans (wordEndInterrupts_leavesControl _ next)
    · exact wordEndInterrupts_leavesControl s next

theorem endWord_leavesControl (s : State) (next : Word18) : LeavesControl s (endWord s next) := by
  have hs : LeavesP s { s with cpu := { s.cpu with seqInc := seqAfterInc s } } := .of_eq rfl
  exact hs.toLeavesControl.trans (endTests_leavesControl _ next)

theorem finishInstr_leavesControl (s : State) (len : Nat) : LeavesControl s (finishInstr s len) := by
  unfold finishInstr
  split
  · exact (LeavesP.refl s).toLeavesControl
  · exact (LeavesP.refl s).toLeavesControl
  · exact endWord_leavesControl s _
  · split
    · exact ⟨⟨⟨rfl, id⟩, rfl, rfl, rfl⟩, .refl s.cpu⟩
    · exact endWord_leavesControl s _

theorem copyTurn_leavesControl (s : State) (c : CopyRun) : LeavesControl s (copyTurn s c) := by
  unfold copyTurn
  split
  · have hs : LeavesP s { s with cpu := { s.cpu with phase := .inWord } } := .of_eq rfl
    exact hs.toLeavesControl.trans (finishInstr_leavesControl _ _)
  · refine LeavesP.toLeavesControl ?_
    unfold copyStep
    dsimp only
    split
    · exact ((lcmDetect_leavesP s _).trans (scmStore_leavesP _ _ _)).and_then rfl
    · exact ((scmDetect_leavesP s _).trans (lcmPut_leavesP _ _ _)).and_then rfl

/-! ### The exchange sequence -/

theorem exchangeRead_leavesP (s : State) (x : Exchange) (w : Fin 16) : LeavesP s (exchangeRead s x w) :=
  (scmDetect_leavesP s _).and_then rfl

theorem exchangeWrite_leavesP (s : State) (x : Exchange) (w : Fin 16) : LeavesP s (exchangeWrite s x w) :=
  ((scmPut_leavesP s _ _).trans (scmDetect_leavesP _ _)).and_then rfl

/-- The load of the registers leaves everything outside the CPU. -/
theorem exchangeLoad_leavesOthers (s : State) (x : Exchange) : LeavesOthers s (exchangeLoad s x) := by
  have hl : LeavesOthers s
      { s with cpu := beginInterval (pkgDecode s.cfg.layout (x.got.toList.map (·.getD 0)) s.cpu) } := ⟨⟨rfl, id⟩, rfl, rfl, rfl⟩
  unfold exchangeLoad
  dsimp only
  split
  · exact hl.trans (raiseLate_leavesP _ (by decide)).toLeavesOthers
  · exact hl

/-- A step of an exchange sequence is a reference or the load, which comes when every word has been written. -/
theorem exchangeStep_leaves (s : State) (x : Exchange) :
    LeavesOthers s (exchangeStep s x) ∧ ((∃ w : Fin 16, x.put[w] = false) → LeavesControl s (exchangeStep s x)) := by
  unfold exchangeStep
  split
  · rename_i hn
    refine ⟨exchangeLoad_leavesOthers s x, fun ⟨w, hw⟩ => ?_⟩
    rw [exchangeWord_none.1 hn w] at hw
    cases hw
  · split
    · exact ⟨(exchangeRead_leavesP s x _).toLeavesOthers, fun _ => (exchangeRead_leavesP s x _).toLeavesControl⟩
    · exact ⟨(exchangeWrite_leavesP s x _).toLeavesOthers, fun _ => (exchangeWrite_leavesP s x _).toLeavesControl⟩

end Operations

end Sys2Proof.Machine
end

section
/-!
What each agent leaves unchanged: the CPU's turn, a PPU's turn, the agents that execute no instruction and the levels at
the end of a step. From these frames follow the statements on the clock (10_state.md R43), on the control registers (R448) and
on the two kinds of processor (R20, 20_memory.md R116).
-/

namespace Sys2Proof.Machine

open Sys2Proof

/-! ### The CPU's turn -/

/-- The CPU's decoder names CPU instructions only. -/
theorem encode_decodeCpu (exitMode : Bool) (p q : Parcel) : ∃ p' q', encode (decodeCpu exitMode p q) = .cpu p' q' := by
  have ite {c : Prop} [Decidable c] {i j : Instr} (hi : ∃ p q, encode i = .cpu p q) (hj : ∃ p q, encode j = .cpu p q) :
      ∃ p q, encode (if c then i else j) = .cpu p q := by
    split
    · exact hi
    · exact hj
  unfold decodeCpu
  split
  case h_2 =>
    split
    case h_4 | h_7 | h_8 => exact ite ⟨_, _, rfl⟩ ⟨_, _, rfl⟩
    all_goals exact ⟨_, _, rfl⟩
  case h_4 => split <;> exact ⟨_, _, rfl⟩
  all_goals exact ⟨_, _, rfl⟩

section CpuTurn

variable {s t : State}

theorem runParcel_leavesControl (h : runParcel s = .next t) : LeavesControl s t := by
  obtain ⟨u, hu, rfl⟩ := onNext_next h
  obtain ⟨p, q, he⟩ := encode_decodeCpu (flag s .exitMode) (currentParcels s).1 (currentParcels s).2
  exact ((issue_leavesP s _).trans (exec_cpu_effect he hu).leavesP).toLeavesControl.trans (finishInstr_leavesControl u _)

theorem runNewWord_leavesControl (h : runNewWord s = .next t) : LeavesControl s t := by
  unfold runNewWord at h
  split at h
  · exact runParcel_leavesControl h
  · cases h; exact (LeavesP.refl s).toLeavesControl

/-- The control registers may change where the CPU's next move is the load of an exchange, and nowhere else. -/
theorem cpuMove_leaves (h : cpuMove s = .next t) : LeavesOthers s t
    ∧ ((∀ x, s.cpu.phase = .exchanging x → ∃ w : Fin 16, x.put[w] = false) → LeavesControl s t) := by
  have both (k : LeavesControl s t) : LeavesOthers s t
      ∧ ((∀ x, s.cpu.phase = .exchanging x → ∃ w : Fin 16, x.put[w] = false) → LeavesControl s t) :=
    ⟨k.toLeavesOthers, fun _ => k⟩
  unfold cpuMove at h
  split at h
  case h_1 => cases h; exact both (exchangeJump_leavesP s _ _ _).toLeavesControl
  case h_2 => exact both ((makeCurrent_leavesP s true).toLeavesControl.trans (runNewWord_leavesControl h))
  case h_3 => exact both ((makeCurrent_leavesP s false).toLeavesControl.trans (runNewWord_leavesControl h))
  case h_4 => exact both (runParcel_leavesControl h)
  case h_5 c _ => cases h; exact both (copyTurn_leavesControl s c)
  case h_6 x hx =>
    cases h
    exact ⟨(exchangeStep_leaves s x).1, fun hp => (exchangeStep_leaves s x).2 (hp x hx)⟩

theorem cpuTurn_leaves (h : cpuTurn s = .next t) : LeavesOthers s t
    ∧ ((∀ x, s.cpu.phase = .exchanging x → ∃ w : Fin 16, x.put[w] = false) → LeavesControl s t) := by
  unfold cpuTurn at h
  split at h
  · cases h
    exact ⟨(LeavesP.refl s).toLeavesOthers, fun _ => (LeavesP.refl s).toLeavesControl⟩
  · split at h
    · cases h
      have hr : LeavesP s (cpuReceive s) := .of_eq rfl
      exact ⟨hr.toLeavesOthers, fun _ => hr.toLeavesControl⟩
    · have hs : LeavesP s (cpuServed s) := .of_eq rfl
      obtain ⟨ho, hc⟩ := cpuMove_leaves h
      exact ⟨hs.toLeavesOthers.trans ho, fun hp => hs.toLeavesControl.trans (hc hp)⟩

end CpuTurn

/-! ### A PPU's turn and the scanner (60_exceptions.md R452) -/

/-- From `q` to `r` only the contents of the channel 0 cable pair have changed: its lines and the pulses in flight. -/
def ScannerFreed (q r : Ppu) : Prop :=
  r = { q with outData := r.outData, inLines := r.inLines, sentW := r.sentW, sentR := r.sentR, sentS := r.sentS }
    ∧ ∀ n : Cable, n ≠ 0 → r.outData[n] = q.outData[n] ∧ r.inLines[n] = q.inLines[n] ∧ r.sentW[n] = q.sentW[n]
      ∧ r.sentR[n] = q.sentR[n] ∧ r.sentS[n] = q.sentS[n]

theorem ScannerFreed.refl (q : Ppu) : ScannerFreed q q := ⟨rfl, fun _ _ => ⟨rfl, rfl, rfl, rfl, rfl⟩⟩

theorem ScannerFreed.trans {q r w : Ppu} (h : ScannerFreed q r) (k : ScannerFreed r w) : ScannerFreed q w := by
  obtain ⟨h, hn⟩ := h
  obtain ⟨k, kn⟩ := k
  refine ⟨?_, fun n h0 => ?_⟩
  · rw [k, h]
  · obtain ⟨h1, h2, h3, h4, h5⟩ := hn n h0
    obtain ⟨k1, k2, k3, k4, k5⟩ := kn n h0
    exact ⟨k1.trans h1, k2.trans h2, k3.trans h3, k4.trans h4, k5.trans h5⟩

/-- Another place of a vector keeps its value. -/
theorem vec_set_other {α : Type} {n : Nat} (v : Vector α n) (x : α) {i j : Fin n} (h : j ≠ i) : (v.set i x)[j] = v[j] := by
  have hn : (i : Nat) ≠ j := fun e => h (Fin.ext e.symm)
  simp only [Fin.getElem_fin, Vector.getElem_set, if_neg hn]

theorem garbleEnd_other (s : State) (item : Nat) {u v : Unit16} (n : Cable) (h : v ≠ u) :
    (garbleEnd s item u n).ppus[v] = s.ppus[v] := by
  rw [garbleEnd, updPpu_getElem, if_neg h.symm]

theorem garbleEnd_same (s : State) (item : Nat) (u : Unit16) : ScannerFreed s.ppus[u] (garbleEnd s item u 0).ppus[u] := by
  rw [garbleEnd, updPpu_getElem, if_pos rfl]
  exact ⟨rfl, fun n h => ⟨vec_set_other _ _ h, vec_set_other _ _ h, vec_set_other _ _ h, vec_set_other _ _ h,
    vec_set_other _ _ h⟩⟩

/-- What freeing the scanner's cables does: after the MCU's end, each PPU named loses what its channel 0 held; nothing else
changes. -/
theorem garble_spec (s : State) (us : List Unit16) : (∃ p, garble s us = { s with ppus := p })
    ∧ ∀ u : Unit16, ScannerFreed (garbleEnd s 0 0 7).ppus[u] (garble s us).ppus[u]
      ∧ (u ∉ us → (garble s us).ppus[u] = (garbleEnd s 0 0 7).ppus[u]) := by
  have fold (l : List Unit16) : ∀ t : State, (∃ p, t = { s with ppus := p }) →
      (∃ p, l.foldl (fun t u => garbleEnd t (5 * (u.val + 1)) u 0) t = { s with ppus := p })
      ∧ ∀ u : Unit16, ScannerFreed t.ppus[u] (l.foldl (fun t u => garbleEnd t (5 * (u.val + 1)) u 0) t).ppus[u]
        ∧ (u ∉ l → (l.foldl (fun t u => garbleEnd t (5 * (u.val + 1)) u 0) t).ppus[u] = t.ppus[u]) := by
    induction l with
    | nil => exact fun t ht => ⟨ht, fun u => ⟨.refl _, fun _ => rfl⟩⟩
    | cons v l ih =>
      rintro t ⟨p, rfl⟩
      obtain ⟨hp, hu⟩ := ih (garbleEnd { s with ppus := p } (5 * (v.val + 1)) v 0) ⟨_, rfl⟩
      refine ⟨hp, fun u => ?_⟩
      obtain ⟨hf, hs⟩ := hu u
      by_cases e : u = v
      · subst e
        exact ⟨(garbleEnd_same _ _ u).trans hf, fun hn => absurd List.mem_cons_self hn⟩
      · have ho := garbleEnd_other { s with ppus := p } (5 * (v.val + 1)) 0 e
        exact ⟨ho ▸ hf, fun hn => (hs fun hm => hn (List.mem_cons_of_mem v hm)).trans ho⟩
  exact fold us (garbleEnd s 0 0 7) ⟨_, rfl⟩

/-- A PPU other than the MCU, where the scanner's cables are freed. -/
theorem garble_ppu (s : State) (us : List Unit16) {u : Unit16} (h0 : u ≠ 0) :
    ScannerFreed s.ppus[u] (garble s us).ppus[u] ∧ (u ∉ us → (garble s us).ppus[u] = s.ppus[u]) := by
  have hu := (garble_spec s us).2 u
  rwa [garbleEnd_other s 0 7 h0] at hu

/-- The scanner's selection is told by the word on MCU channel 0. -/
theorem scanSel_congr {s t : State} (hm : mcuControl t = mcuControl s) : scanSel t = scanSel s := by
  simp only [scanSel, hm]

theorem scanTarget_congr {s t : State} (hc : t.cfg = s.cfg) (hm : mcuControl t = mcuControl s) :
    scanTarget t = scanTarget s := by
  simp only [scanTarget, scanSel_congr hm, hc]

/-- A PPU that the scanner has selected is not the MCU, and SCANSEL names it. -/
theorem scanTarget_some {s : State} {u : Unit16} (h : scanTarget s = some u) : u ≠ 0 ∧ scanSel s = u := by
  unfold scanTarget at h
  split at h <;> cases h
  rename_i hc
  simp only [Bool.and_eq_true, decide_eq_true_eq] at hc
  exact ⟨hc.1, rfl⟩

/-- Freeing the scanner's cables leaves the word on MCU channel 0. -/
theorem garble_mcuControl (s : State) {us : List Unit16} (h : (0 : Unit16) ∉ us) :
    mcuControl (garble s us) = mcuControl s := by
  have h0 := ((garble_spec s us).2 0).2 h
  have hd : (garbleEnd s 0 0 7).ppus[(0 : Unit16)].outData[(0 : Cable)] = s.ppus[(0 : Unit16)].outData[(0 : Cable)] := by
    rw [garbleEnd, updPpu_getElem, if_pos rfl]
    exact vec_set_other _ _ (by decide)
  exact (congrArg (fun q : Ppu => q.outData[(0 : Cable)]) h0).trans hd

/-- What O49 says of a PPU's step, from `s` to `t`. -/
def PpuAlone (s t : State) : Prop :=
  t = { s with ppus := t.ppus } ∧ ∀ u : Unit16, u ≠ s.cur →
    (s.cur ≠ 0 ∨ scanTarget t = scanTarget s ∨ (scanTarget s ≠ some u ∧ scanTarget t ≠ some u) → t.ppus[u] = s.ppus[u])
      ∧ ScannerFreed s.ppus[u] t.ppus[u]

/-- Where only the executing PPU changes, the others are left alone. -/
theorem PpuAlone.of_setPpu (s : State) (q : Ppu) : PpuAlone s (setPpu s q) :=
  ⟨rfl, fun u hu => ⟨fun _ => setPpu_other s q u hu, by rw [setPpu_other s q u hu]; exact .refl _⟩⟩

/-- After a word has gone out: the cables are freed where the MCU has changed its selection (D35). -/
theorem PpuAlone.of_afterOutput (s : State) (q : Ppu) : PpuAlone s (afterOutput s (setPpu s q)) := by
  have ha := PpuAlone.of_setPpu s q
  unfold afterOutput
  dsimp only
  split
  case isFalse => exact ha
  rename_i hguard
  have hsel : scanSel (setPpu s q) ≠ scanSel s := by
    rw [Bool.and_eq_true, decide_eq_true_eq] at hguard
    exact hguard.1
  have hcur : s.cur = 0 := by
    by_contra hne
    have hm : mcuControl (setPpu s q) = mcuControl s :=
      congrArg (fun p : Ppu => p.outData[(0 : Cable)]) (setPpu_other s q 0 (Ne.symm hne))
    exact hsel (scanSel_congr hm)
  generalize hus : (scanTarget s).toList ++ (scanTarget (setPpu s q)).toList = us
  have mem_us (u : Unit16) : u ∈ us ↔ scanTarget s = some u ∨ scanTarget (setPpu s q) = some u := by
    rw [← hus]; simp [Option.mem_toList]
  have hzero : (0 : Unit16) ∉ us := fun hm =>
    ((mem_us 0).1 hm).elim (fun h => (scanTarget_some h).1 rfl) (fun h => (scanTarget_some h).1 rfl)
  obtain ⟨p, hp⟩ := (garble_spec (setPpu s q) us).1
  have htarget : scanTarget (garble (setPpu s q) us) = scanTarget (setPpu s q) :=
    scanTarget_congr (by rw [hp]) (garble_mcuControl _ hzero)
  refine ⟨by rw [hp]; rfl, fun u hu => ?_⟩
  obtain ⟨hf, hs⟩ := garble_ppu (setPpu s q) us (u := u) (hcur ▸ hu)
  rw [setPpu_other s q u hu] at hf hs
  refine ⟨fun hd => hs fun hm => ?_, hf⟩
  rw [htarget] at hd
  rcases hd with hd | hd | ⟨hd, hd'⟩
  · exact hd hcur
  · have hu' := (mem_us u).1 hm
    rw [hd, or_self] at hu'
    exact hsel ((scanTarget_some (hd.trans hu')).2.trans (scanTarget_some hu').2.symm)
  · exact ((mem_us u).1 hm).elim hd hd'

theorem PpuEffect.alone {s t : State} (h : PpuEffect s t) : PpuAlone s t := by
  cases h with
  | waits => exact ⟨rfl, fun u _ => ⟨fun _ => rfl, .refl _⟩⟩
  | moves q => exact .of_setPpu s q
  | outputs q => exact .of_afterOutput s q

/-- A change of the executing PPU that leaves its output lines leaves the word on MCU channel 0. -/
theorem mcuControl_setPpu {s : State} {q : Ppu} (h : q.outData = (getPpu s).outData) :
    mcuControl (setPpu s q) = mcuControl s := by
  by_cases h0 : s.cur = 0
  · have hq := getPpu_setPpu s q
    simp only [getPpu, setPpu_cur, h0] at hq h
    exact (congrArg (fun p : Ppu => p.outData[(0 : Cable)]) hq).trans (congrArg (fun v => v[(0 : Cable)]) h)
  · exact congrArg (fun p : Ppu => p.outData[(0 : Cable)]) (setPpu_other s q 0 (Ne.symm h0))

/-- The word of an instruction entering fd is seen by no other PPU. -/
theorem PpuAlone.of_begin {s t : State} (h : PpuAlone (ppuBegin s) t) : PpuAlone s t := by
  obtain ⟨ht, hu⟩ := h
  have hm : mcuControl (ppuBegin s) = mcuControl s := mcuControl_setPpu rfl
  have htarget : scanTarget (ppuBegin s) = scanTarget s := scanTarget_congr rfl hm
  refine ⟨ht.trans rfl, fun u hn => ?_⟩
  have ho : (ppuBegin s).ppus[u] = s.ppus[u] := setPpu_other s _ u hn
  have := hu u hn
  rwa [htarget, ho] at this

theorem ppuStep_alone {s t : State} (h : ppuStep s = .next t) : PpuAlone s t :=
  (ppuStep_effect h).elim (·.alone) (fun k => .of_begin k.alone)

/-- Settles O49: a PPU's step is one of `PpuEffect`, and the CPU's operations leave the PPUs and the clock. -/
theorem processorsKeepToTheirOwnState : Obligations.ProcessorsKeepToTheirOwnState := by
  refine ⟨?_, ?_⟩
  · rintro s t (h | ⟨i, w, m, he, h⟩)
    · exact ppuStep_alone h
    · exact (exec_ppu_effect he h).alone
  · intro s t h
    have hl : LeavesOthers s t := by
      rcases h with h | ⟨i, p, q, he, h⟩
      · exact (cpuTurn_leaves h).1
      · exact (exec_cpu_effect he h).leavesP.toLeavesOthers
    exact ⟨hl.ppus, hl.cur, hl.cfg, hl.clk⟩

/-! ### The agents that execute no instruction -/

/-- From `s` to `t` nothing has changed outside the multiplexer's channels and the PPUs. -/
def OnlyCables (s t : State) : Prop := ∃ m p, t = { s with mux := m, ppus := p }

theorem OnlyCables.refl (s : State) : OnlyCables s s := ⟨s.mux, s.ppus, rfl⟩

theorem OnlyCables.trans {s t u : State} (h : OnlyCables s t) (k : OnlyCables t u) : OnlyCables s u := by
  obtain ⟨_, _, rfl⟩ := h
  obtain ⟨m, p, rfl⟩ := k
  exact ⟨m, p, rfl⟩

theorem updPpu_onlyCables (s : State) (u : Unit16) (f : Ppu → Ppu) : OnlyCables s (updPpu s u f) := ⟨s.mux, _, rfl⟩

theorem setIn_onlyCables (s : State) (c : Unit16) (m : MuxIn) : OnlyCables s (setIn s c m) := ⟨_, s.ppus, rfl⟩

theorem setOut_onlyCables (s : State) (c : Unit16) (m : MuxOut) : OnlyCables s (setOut s c m) := ⟨_, s.ppus, rfl⟩

theorem hitWord_onlyCables (s : State) (r : RxEnd) : OnlyCables s (hitWord s r) := by
  cases r with
  | ppu u n =>
    dsimp only [hitWord]
    split
    · exact .refl s
    · exact updPpu_onlyCables s u _
  | mux c => exact setIn_onlyCables s c _

theorem hitRecord_onlyCables (s : State) (r : RxEnd) : OnlyCables s (hitRecord s r) := by
  cases r with
  | ppu u n =>
    dsimp only [hitRecord]
    split
    · exact .refl s
    · exact updPpu_onlyCables s u _
  | mux c => exact setIn_onlyCables s c _

theorem hitResume_onlyCables (s : State) (t : TxEnd) : OnlyCables s (hitResume s t) := by
  cases t with
  | ppu u n => dsimp only [hitResume]; exact updPpu_onlyCables s u _
  | mux c => exact setOut_onlyCables s c _

theorem deliverWord_onlyCables (s : State) (t : TxEnd) : OnlyCables s (deliverWord s t) := by
  have arrives (q : State) : OnlyCables q (match farRx s t with | some r => hitWord q r | none => q) := by
    split
    · exact hitWord_onlyCables q _
    · exact .refl q
  cases t with
  | ppu u n =>
    dsimp only [deliverWord]
    split
    · exact .refl s
    · exact (updPpu_onlyCables s u _).trans (arrives _)
  | mux c =>
    dsimp only [deliverWord]
    split
    · exact .refl s
    · exact (setOut_onlyCables s c _).trans (arrives _)

theorem deliverRecord_onlyCables (s : State) (t : TxEnd) : OnlyCables s (deliverRecord s t) := by
  have arrives (q : State) : OnlyCables q (match farRx s t with | some r => hitRecord q r | none => q) := by
    split
    · exact hitRecord_onlyCables q _
    · exact .refl q
  cases t with
  | ppu u n =>
    dsimp only [deliverRecord]
    split
    · exact .refl s
    · exact (updPpu_onlyCables s u _).trans (arrives _)
  | mux c =>
    dsimp only [deliverRecord]
    split
    · exact .refl s
    · exact (setOut_onlyCables s c _).trans (arrives _)

theorem deliverResume_onlyCables (s : State) (r : RxEnd) : OnlyCables s (deliverResume s r) := by
  have arrives (q : State) : OnlyCables q (match farTx s r with | some t => hitResume q t | none => q) := by
    split
    · exact hitResume_onlyCables q _
    · exact .refl q
  cases r with
  | ppu u n =>
    dsimp only [deliverResume]
    split
    · exact .refl s
    · exact (updPpu_onlyCables s u _).trans (arrives _)
  | mux c =>
    dsimp only [deliverResume]
    split
    · exact .refl s
    · exact (setIn_onlyCables s c _).trans (arrives _)

/-- An operation that happens only under a condition. -/
theorem OnlyCables.ite {s t : State} {c : Prop} [Decidable c] (h : OnlyCables s t) : OnlyCables s (if c then t else s) := by
  split
  · exact h
  · exact .refl s

theorem envLines_onlyCables (s : State) (r : RxEnd) (v : Word12) : OnlyCables s (envLines s r v) := by
  cases r with
  | ppu u n => exact (updPpu_onlyCables s u _).ite
  | mux c => exact (setIn_onlyCables s c _).ite

theorem levelResume_onlyCables (s : State) (c : Unit16) : OnlyCables s (levelResume s c) := by
  unfold levelResume
  split
  · exact (setOut_onlyCables s c _).ite
  · exact .refl s

theorem muxSend_onlyCables (s : State) (c : Unit16) : OnlyCables s (muxSend s c) := by
  unfold muxSend
  dsimp only
  split
  · exact .refl s
  · split
    · split
      · exact .refl s
      · split
        · exact .refl s
        · exact setOut_onlyCables s c _
    · exact (setOut_onlyCables s c _).ite

theorem muxResume_onlyCables (s : State) (c : Unit16) : OnlyCables s (muxResume s c) := by
  unfold muxResume
  dsimp only
  split
  · exact .refl s
  · split
    · exact setOut_onlyCables s c _
    · split
      · exact .refl s
      · split
        · exact (setOut_onlyCables s c _).ite
        · split
          · exact .refl s
          · split <;> exact setOut_onlyCables s c _

/-- What a step of any agent but the clock leaves alone, where it is not the load of an exchange jump. -/
structure LeavesClock (s t : State) : Prop extends SameClock s t where
  control : ControlKept s.cpu t.cpu

theorem LeavesClock.trans {s t u : State} (h : LeavesClock s t) (k : LeavesClock t u) : LeavesClock s u :=
  ⟨h.toSameClock.trans k.toSameClock, h.control.trans k.control⟩

theorem LeavesControl.leavesClock {s t : State} (h : LeavesControl s t) : LeavesClock s t := ⟨h.toSameClock, h.control⟩

theorem OnlyCables.leavesClock {s t : State} (h : OnlyCables s t) : LeavesClock s t := by
  obtain ⟨_, _, rfl⟩ := h
  exact ⟨⟨rfl, id⟩, .refl s.cpu⟩

/-- An operation on the fields that `LeavesClock` does not look at. -/
theorem LeavesClock.of_eq {s t : State} (h : t.leaves = s.leaves) : LeavesClock s t := (LeavesP.of_eq h).leavesClock

theorem LeavesClock.refl (s : State) : LeavesClock s s := .of_eq rfl

theorem muxStore_leavesClock (s : State) (c : Unit16) : LeavesClock s (muxStore s c) := by
  unfold muxStore
  dsimp only
  split
  · refine .trans ?_ (scmStore_leavesP _ _ _).leavesClock
    exact .of_eq rfl
  · exact .refl s

theorem muxFetch_leavesClock (s : State) (c : Unit16) : LeavesClock s (muxFetch s c) := by
  unfold muxFetch
  dsimp only
  split
  · refine .trans ?_ (scmDetect_leavesP _ _).leavesClock
    exact .of_eq rfl
  · exact .refl s

theorem mcuStore_leavesClock (s : State) : LeavesClock s (mcuStore s) := by
  unfold mcuStore
  split
  · refine .trans ?_ (scmStore_leavesP _ _ _).leavesClock
    exact .of_eq rfl
  · exact .refl s

theorem onChannel_leavesClock {s : State} {c : Unit16} {f : State → Unit16 → State} (h : LeavesClock s (f s c)) :
    LeavesClock s (onChannel s c f) := by
  unfold onChannel
  split
  · exact h
  · exact .refl s

/-- Every agent but the clock leaves the clock, its request and the control registers. -/
theorem agentStep_leavesClock (s : State) {e : Event} (he : e ≠ .clock) : LeavesClock s (agentStep s e) := by
  cases e with
  | clock => exact absurd rfl he
  | cpu | ppu u => exact .refl s
  | muxSample c => exact onChannel_leavesClock (setIn_onlyCables s c _).ite.leavesClock
  | muxRecord c => exact onChannel_leavesClock (setIn_onlyCables s c _).ite.leavesClock
  | muxStore c => exact onChannel_leavesClock (muxStore_leavesClock s c)
  | muxFetch c => exact onChannel_leavesClock (muxFetch_leavesClock s c)
  | muxAhead c => exact onChannel_leavesClock (setOut_onlyCables s c _).ite.leavesClock
  | muxSend c => exact onChannel_leavesClock (muxSend_onlyCables s c).leavesClock
  | muxResume c => exact onChannel_leavesClock (muxResume_onlyCables s c).leavesClock
  | deliverWord t => exact (deliverWord_onlyCables s t).leavesClock
  | deliverRecord t => exact (deliverRecord_onlyCables s t).leavesClock
  | deliverResume r => exact (deliverResume_onlyCables s r).leavesClock
  | levelResume c => exact (levelResume_onlyCables s c).leavesClock
  | envLines r v => exact (envLines_onlyCables s r v).leavesClock
  | envWord r => exact (hitWord_onlyCables s r).ite.leavesClock
  | envRecord r => exact (hitRecord_onlyCables s r).ite.leavesClock
  | envResume t => exact (hitResume_onlyCables s t).ite.leavesClock
  | mcuStore => exact mcuStore_leavesClock s
  | ppuParity u banks => dsimp only [agentStep, ppuParity]; exact (updPpu_onlyCables s u _).leavesClock
  | scmReceive b n | mcuWriteScm a v | mcuSwitch up | scmParity a sec | lcmParity a sec => exact .of_eq rfl

/-! ### The end of a step -/

/-- The continuous Resume of a PPU changes PPUs only. -/
theorem forcedResume_onlyCables (s : State) (u : Unit16) : OnlyCables s (forcedResume s u) := by
  unfold forcedResume
  refine List.foldlRecOn _ _ (.refl s) fun t ht n _ => ?_
  split
  · exact ht.trans (updPpu_onlyCables t _ _)
  · exact ht

theorem applyDeadStart_onlyCables (s : State) (u : Unit16) (dump : Bool) : OnlyCables s (applyDeadStart s u dump) :=
  (forcedResume_onlyCables s u).trans (updPpu_onlyCables _ u _)

theorem applySelected_onlyCables (s : State) (u : Unit16) : OnlyCables s (applySelected s u) := by
  have h1 : OnlyCables s (if mcuBit s 0 then updPpu s u (fun q => { q with parErr := 0 }) else s) :=
    (updPpu_onlyCables s u _).ite
  unfold applySelected
  dsimp only
  split
  · exact h1.trans (applyDeadStart_onlyCables _ u _)
  · split
    · exact h1.trans (updPpu_onlyCables _ u _)
    · exact h1

theorem applyMcuLevels_onlyCables (s : State) : OnlyCables s (applyMcuLevels s) := by
  have h1 : OnlyCables s (if mcuBit s 6 then updPpu s 0 (fun q => { q with parErr := 0 }) else s) :=
    (updPpu_onlyCables s 0 _).ite
  unfold applyMcuLevels
  dsimp only
  split
  · exact h1.trans (applyDeadStart_onlyCables _ 0 _)
  · exact h1

theorem applyCpuLevels_leavesClock (s : State) : LeavesClock s (applyCpuLevels s) := by
  unfold applyCpuLevels
  dsimp only
  split <;> split <;> split <;> exact .of_eq rfl

theorem settle_leavesClock (s : State) : LeavesClock s (settle s) := by
  have h1 : OnlyCables s (match scanTarget s with | some u => applySelected s u | none => s) := by
    split
    · exact applySelected_onlyCables s _
    · exact .refl s
  have h3 (t : State) : OnlyCables t (resumeLevels (applyMcuLevels t)) :=
    (applyMcuLevels_onlyCables t).trans ⟨_, _, rfl⟩
  exact (h1.leavesClock.trans (applyCpuLevels_leavesClock _)).trans (h3 _).leavesClock

theorem endStep_leavesClock (s : State) : LeavesClock s (endStep s) := (settle_leavesClock s).trans (.of_eq rfl)

theorem popEvent_leavesClock (s : State) : LeavesClock s (popEvent s) := .of_eq rfl

/-! ### The whole step -/

theorem PpuAlone.leavesClock {s t : State} (h : PpuAlone s t) : LeavesClock s t := by
  rw [h.1]
  exact ⟨⟨rfl, id⟩, .refl s.cpu⟩

theorem ppuTurn_leavesClock {s t : State} {u : Unit16} (h : ppuTurn s u = .next t) : LeavesClock s t := by
  unfold ppuTurn at h
  split at h
  · have hu : LeavesClock s { s with cur := u } := ⟨⟨rfl, id⟩, .refl s.cpu⟩
    exact hu.trans (ppuStep_alone h).leavesClock
  · cases h; exact .refl s

/-- The turn of any agent but the clock; the control registers, where it is not the load of an exchange. -/
theorem turn_leaves {s t : State} {e : Event} (he : e ≠ .clock) (h : turn s e = .next t) : SameClock s t
    ∧ ((∀ x, s.cpu.phase = .exchanging x → ∃ w : Fin 16, x.put[w] = false) → ControlKept s.cpu t.cpu) := by
  unfold turn at h
  split at h
  · exact ⟨(cpuTurn_leaves h).1.toSameClock, fun hp => ((cpuTurn_leaves h).2 hp).control⟩
  · exact ⟨(ppuTurn_leavesClock h).toSameClock, fun _ => (ppuTurn_leavesClock h).control⟩
  · cases h
    exact ⟨(agentStep_leavesClock s he).toSameClock, fun _ => (agentStep_leavesClock s he).control⟩

/-- The clock's turn (R43): the request is set where the count wraps. -/
theorem clockTick_eq (s : State) :
    clockTick s = { s with clk := s.clk + 1, rtcFlag := s.rtcFlag || decide (s.clk.toNat = 2 ^ 17 - 1) } := by
  have hw : (s.clk + 1 == 0) = decide (s.clk.toNat = 2 ^ 17 - 1) := by
    have hlt := s.clk.isLt
    rw [Bool.eq_iff_iff, beq_iff_eq, decide_eq_true_eq, ← BitVec.toNat_inj, BitVec.toNat_add,
      show (1 : BitVec 17).toNat = 1 from rfl, show (0 : BitVec 17).toNat = 0 from rfl]
    omega
  rw [clockTick, hw]

/-- Where no level acts, the end of a step counts it and does nothing else. -/
theorem endStep_idle {s : State} (h : LevelsIdle s) : endStep s = ticked s s := by
  rw [endStep, settle_idle h, ticked]

/-- Settles O46: the clock's turn counts, and the frame of every other turn and of the levels leaves the count. -/
theorem clockWrapRequestsInterrupt : Obligations.ClockWrapRequestsInterrupt := by
  refine ⟨fun s hl hs => ?_, fun s t he h => ?_⟩
  · have hidle : LevelsIdle (clockTick (popEvent s)) := hl
    have hstep : step s = .next (endStep (clockTick (popEvent s))) := by
      simp only [step, nextEvent, hs, turn, agentStep, onNext]
    rw [hstep, endStep_idle hidle, clockTick_eq]
    simp only [ticked, popEvent, hs, List.tail_cons]
  · obtain ⟨u, hu, rfl⟩ := onNext_next h
    have hc : SameClock s (endStep u) :=
      ((popEvent_leavesClock s).toSameClock.trans (turn_leaves he hu).1).trans (endStep_leavesClock u).toSameClock
    exact ⟨hc.clk, hc.rtc⟩

/-- Settles O47: by the frames of the instructions, of the turns and of the end of a step. -/
theorem controlRegistersNeedAnExchange : Obligations.ControlRegistersNeedAnExchange := by
  refine ⟨fun i s t h => ?_, fun s t hp h => ?_⟩
  · rcases exec_effect h with k | k
    · exact ⟨k.leavesP.control, k.leavesP.p⟩
    · rw [k.alone.1]
      exact ⟨.refl s.cpu, rfl⟩
  · obtain ⟨u, hu, rfl⟩ := onNext_next h
    have hturn : ControlKept s.cpu u.cpu := by
      by_cases he : nextEvent s = .clock
      · rw [he] at hu
        cases hu
        exact .refl s.cpu
      · exact (turn_leaves he hu).2 hp
    exact hturn.trans (endStep_leavesClock u).control

end Sys2Proof.Machine
end

section
/-!
A CPU step at a new word and inside one (10_state.md R30): the step runs the instruction decoded at PARCEL.
-/

namespace Sys2Proof.Machine

open Sys2Proof

/-- Where the next event is the CPU's and it need not wait, its request is served and it moves. -/
theorem step_cpu {s : State} (he : nextEvent s = .cpu) (hh : cpuHeld s = false) (hw : cpuMustWait (popEvent s) = false) :
    step s = onNext (cpuMove (cpuServed (popEvent s))) endStep := by
  have hh' : cpuHeld (popEvent s) = false := hh
  simp [step, he, turn, cpuTurn, hh', hw]

theorem onNext_onNext (r : Outcome) (f g : State → State) : onNext (onNext r f) g = onNext r (fun t => g (f t)) := by
  cases r <;> rfl

/-- Bits 59-15n to 45-15n, as the statements write them. -/
theorem parcelOf_eq (w : Word60) (n : Nat) : parcelOf w n = w.extractLsb' (45 - 15 * n) 15 := by
  unfold parcelOf
  ext k hk
  simp only [BitVec.getElem_setWidth, BitVec.getElem_extractLsb', BitVec.getLsbD_ushiftRight]

/-- The parcels at PARCEL, as the statements write them. -/
theorem currentParcels_eq (s : State) :
    currentParcels s = (s.cpu.ciw.extractLsb' (45 - 15 * s.cpu.parcel.val) 15,
      if s.cpu.parcel.val = 3 then 0 else s.cpu.ciw.extractLsb' (30 - 15 * s.cpu.parcel.val) 15) := by
  have hs : 45 - 15 * (s.cpu.parcel.val + 1) = 30 - 15 * s.cpu.parcel.val := by omega
  simp only [currentParcels, parcelOf_eq, hs]

/-- Running the instruction at PARCEL, with the end of the step. -/
theorem runParcel_eq {s : State} {p q : Parcel} {i : Instr} (hp : currentParcels s = (p, q))
    (hi : i = decodeCpu (flag s .exitMode) p q) :
    onNext (runParcel s) endStep = onNext (exec i (issue s i))
      (fun t => endStep (finishInstr t (if isLong (flag s .exitMode) p then 2 else 1))) := by
  rw [runParcel, onNext_onNext, currentLength, currentInstr, hp, hi]

/-- Settles O5: inside a word the CPU's move is to run the instruction at PARCEL. -/
theorem cpuStepRunsDecodedInstruction : Obligations.CpuStepRunsDecodedInstruction := by
  intro s p q i he hh hw hphase hp hq hi
  have hmove : cpuMove (cpuServed (popEvent s)) = runParcel (cpuServed (popEvent s)) := by
    have hc : (cpuServed (popEvent s)).cpu.phase = .inWord := hphase
    simp only [cpuMove, hc]
  have hparcels : currentParcels (cpuServed (popEvent s)) = (p, q) := by
    rw [currentParcels_eq, hp, hq]; rfl
  rw [step_cpu he hh hw, hmove]
  exact runParcel_eq hparcels hi

/-- The word `v` current, from its first parcel, with the stack `l`. -/
def wordCurrent (s : State) (v : Word60) (l : List (Word18 × Word60)) : State :=
  { s with cpu := { s.cpu with
      ciw := v, iws := l, parcel := 0, phase := .inWord, issued := 0, inc30 := 0, branched := false, seqInc := false } }

theorem currentParcels_wordCurrent (s : State) (v : Word60) (l : List (Word18 × Word60)) :
    currentParcels (wordCurrent s v l) = (v.extractLsb' 45 15, v.extractLsb' 30 15) :=
  (currentParcels_eq _).trans rfl

/-- A word that no address test concerns is made current: it is fetched, and nothing else happens. -/
theorem makeCurrent_fetch {s : State} (hlate : lateBreak s s.cpu.p = false) (hfault : addressFault s s.cpu.p = false)
    (h : s.scmBad = []) : ∃ l, makeCurrent s false = wordCurrent s (fetchValue s s.cpu.p) l := by
  obtain ⟨l, hl⟩ := loadWord_spec s.cpu.p h
  refine ⟨l, ?_⟩
  simp only [makeCurrent, hlate, hfault, hl, Bool.false_and, Bool.or_false, Bool.false_eq_true, if_false, wordCurrent]

/-- An empty stack delivers what SCM holds. -/
theorem fetchValue_empty {s : State} {w : Word18} (hiws : s.cpu.iws = []) (h : s.scmBad = [])
    (hx : scmExists s (scmAbs s w) = true) : fetchValue s w = memRead s.scm (scmAbs s w).toNat := by
  simp only [fetchValue, iwsFind, hiws, List.filter_nil, List.map_nil, List.isEmpty_nil, if_true]
  exact scmValue_none h hx

/-- None of the address tests fires. -/
theorem addressFault_false {s : State} {w : Word18} (h0 : w ≠ 0) (hf : w < s.cpu.fls) (hb : w ≠ s.cpu.bpa) :
    addressFault s w = false := by
  simp only [addressFault, decide_eq_false (BitVec.not_le.2 hf), beq_false_of_ne h0, beq_false_of_ne hb, Bool.or_false]

/-- The late case of R431 is of a word at (BPA). -/
theorem lateBreak_false {s : State} {w : Word18} (hb : w ≠ s.cpu.bpa) : lateBreak s w = false := by
  simp only [lateBreak, beq_false_of_ne hb, Bool.and_false, Bool.false_and]

/-- Settles O6: the word at P is fetched and made current, and its first instruction runs. -/
theorem cpuStepFetchesTheWordAtP : Obligations.CpuStepFetchesTheWordAtP := by
  intro s w i he hh hw hphase hiws hpar h0 hf hb hx hword hi
  obtain ⟨l, hl⟩ := makeCurrent_fetch (s := cpuServed (popEvent s)) (lateBreak_false hb) (addressFault_false h0 hf hb) hpar.1
  have hvalue : fetchValue (cpuServed (popEvent s)) (cpuServed (popEvent s)).cpu.p = w :=
    (fetchValue_empty (s := cpuServed (popEvent s)) hiws hpar.1 hx).trans hword.symm
  rw [hvalue] at hl
  have hmove : cpuMove (cpuServed (popEvent s)) = runParcel (wordCurrent (cpuServed (popEvent s)) w l) := by
    have hc : (cpuServed (popEvent s)).cpu.phase = .fetch := hphase
    simp only [cpuMove, hc, hl, runNewWord]
    rfl
  refine ⟨wordCurrent (cpuServed (popEvent s)) w l, ?_, rfl, rfl, rfl, rfl⟩
  rw [step_cpu he hh hw, hmove]
  exact runParcel_eq (s := wordCurrent (cpuServed (popEvent s)) w l) (currentParcels_wordCurrent _ w l) hi

end Sys2Proof.Machine
end

section
/-!
The dead start level and the dead dump of a PPU (70_reset_and_hazards.md R474 to R477): what the levels at the end of a step
leave in every PPU.
-/

namespace Sys2Proof.Machine

open Sys2Proof

/-! ### Output flags that only clear -/

/-- From `q` to `r` no output flag has been set. -/
def OutFall (q r : Ppu) : Prop :=
  ∀ n : Cable, (q.outw[n] = false → r.outw[n] = false) ∧ (q.outr[n] = false → r.outr[n] = false)

/-- From `q` to `r` nothing has changed but that output flags may have cleared. -/
def FlagsFall (q r : Ppu) : Prop := r = { q with outw := r.outw, outr := r.outr } ∧ OutFall q r

theorem OutFall.trans {q r w : Ppu} (h : OutFall q r) (k : OutFall r w) : OutFall q w :=
  fun n => ⟨fun e => (k n).1 ((h n).1 e), fun e => (k n).2 ((h n).2 e)⟩

theorem FlagsFall.refl (q : Ppu) : FlagsFall q q := ⟨rfl, fun _ => ⟨id, id⟩⟩

theorem FlagsFall.trans {q r w : Ppu} (h : FlagsFall q r) (k : FlagsFall r w) : FlagsFall q w := by
  refine ⟨?_, h.2.trans k.2⟩
  rw [k.1, h.1]

/-- Clearing one flag sets none. -/
theorem set_false_falls (v : Vector Bool 8) (m n : Cable) (h : v[n] = false) : (v.set m false)[n] = false := by
  simp only [Fin.getElem_fin, Vector.getElem_set] at h ⊢
  split
  · rfl
  · exact h

theorem answered_falls (q : Ppu) (m : Cable) : FlagsFall q (q.answered m) :=
  ⟨rfl, fun n => ⟨set_false_falls q.outw m n, set_false_falls q.outr m n⟩⟩

theorem answered_clear (q : Ppu) (m : Cable) : (q.answered m).outw[m] = false ∧ (q.answered m).outr[m] = false := by
  simp [Ppu.answered]

theorem wordTaken_falls (q : Ppu) (m : Cable) : FlagsFall q (q.wordTaken m) :=
  ⟨rfl, fun n => ⟨set_false_falls q.outw m n, id⟩⟩

/-- A change of PPUs none of which does more than clear output flags. -/
theorem updPpu_falls {s : State} {v : Unit16} {f : Ppu → Ppu} (hf : FlagsFall s.ppus[v] (f s.ppus[v])) (u : Unit16) :
    FlagsFall s.ppus[u] (updPpu s v f).ppus[u] := by
  rw [updPpu_getElem]
  split
  · rename_i e; exact e ▸ hf
  · exact .refl _

theorem levelPpus_falls (cfg : Config) (mux : Vector MuxChan 16) (ppus : Vector Ppu 16) (u : Unit16) :
    FlagsFall ppus[u] (levelPpus cfg mux ppus)[u] := by
  unfold levelPpus
  refine List.foldlRecOn (motive := fun v : Vector Ppu 16 => FlagsFall ppus[u] v[u]) _ _ (.refl _) fun v hv c _ => ?_
  split
  · split
    · rename_i w n _
      by_cases e : u = w
      · subst e
        simp only [Fin.getElem_fin, Vector.getElem_set_self]
        exact hv.trans (wordTaken_falls _ n)
      · rwa [vec_set_other _ _ e]
    · exact hv
  · exact hv

/-! ### The continuous Resume of a PPU in dead start -/

/-- Who sends to a receiver is told by the configuration and the scanner's selection. -/
theorem farTx_congr {s t : State} (hc : t.cfg = s.cfg) (hm : mcuControl t = mcuControl s) (r : RxEnd) :
    farTx t r = farTx s r := by
  cases r with
  | ppu u n => simp only [farTx, scanTarget_congr hc hm, hc]
  | mux c => simp only [farTx, hc]

/-- Clearing output flags leaves the word on MCU channel 0. -/
theorem mcuControl_falls {s t : State} (h : FlagsFall s.ppus[(0 : Unit16)] t.ppus[(0 : Unit16)]) :
    mcuControl t = mcuControl s := by
  have hd : t.ppus[(0 : Unit16)].outData = s.ppus[(0 : Unit16)].outData := by rw [h.1]
  exact congrArg (fun v => v[(0 : Cable)]) hd

/-- The continuous Resume of PPU `u` on its input cable `n`. -/
def resumeCable (u : Unit16) (s : State) (n : Cable) : State :=
  match farTx s (.ppu u n) with
  | some (.ppu v m) => updPpu s v (fun q => q.answered m)
  | _ => s

theorem forcedResume_eq (s : State) (u : Unit16) : forcedResume s u = (List.finRange 8).foldl (resumeCable u) s := rfl

theorem resumeCable_falls (u : Unit16) (s : State) (n : Cable) : (∃ p, resumeCable u s n = { s with ppus := p })
    ∧ ∀ w : Unit16, FlagsFall s.ppus[w] (resumeCable u s n).ppus[w] := by
  unfold resumeCable
  split
  · exact ⟨⟨_, rfl⟩, updPpu_falls (answered_falls _ _)⟩
  · exact ⟨⟨s.ppus, rfl⟩, fun w => .refl _⟩

/-- The sender over that cable has its flags clear. -/
theorem resumeCable_clear {u v : Unit16} {s : State} {n m : Cable} (h : farTx s (.ppu u n) = some (.ppu v m)) :
    (resumeCable u s n).ppus[v].outw[m] = false ∧ (resumeCable u s n).ppus[v].outr[m] = false := by
  simp only [resumeCable, h, updPpu_getElem, if_true]
  exact answered_clear _ m

/-- The continuous Resume changes output flags only, and those of whoever sends to `u` are clear after it. -/
theorem forcedResume_spec (s : State) (u : Unit16) : (∃ p, forcedResume s u = { s with ppus := p })
    ∧ (∀ w : Unit16, FlagsFall s.ppus[w] (forcedResume s u).ppus[w])
    ∧ ∀ (n m : Cable) (v : Unit16), farTx s (.ppu u n) = some (.ppu v m) →
      (forcedResume s u).ppus[v].outw[m] = false ∧ (forcedResume s u).ppus[v].outr[m] = false := by
  have fold (l : List Cable) : ∀ t : State, (∃ p, t = { s with ppus := p }) → (∀ w : Unit16, FlagsFall s.ppus[w] t.ppus[w]) →
      (∃ p, l.foldl (resumeCable u) t = { s with ppus := p })
      ∧ (∀ w : Unit16, FlagsFall t.ppus[w] (l.foldl (resumeCable u) t).ppus[w])
      ∧ ∀ n ∈ l, ∀ (m : Cable) (v : Unit16), farTx s (.ppu u n) = some (.ppu v m) →
        (l.foldl (resumeCable u) t).ppus[v].outw[m] = false ∧ (l.foldl (resumeCable u) t).ppus[v].outr[m] = false := by
    induction l with
    | nil => exact fun t ht _ => ⟨ht, fun w => .refl _, nofun⟩
    | cons c l ih =>
      rintro t ⟨p, rfl⟩ hf
      obtain ⟨⟨p', hp'⟩, hc⟩ := resumeCable_falls u { s with ppus := p } c
      obtain ⟨hr, hl, hclear⟩ := ih _ ⟨p', hp'⟩ fun w => (hf w).trans (hc w)
      refine ⟨hr, fun w => (hc w).trans (hl w), fun n hn m v hv => ?_⟩
      rcases List.mem_cons.1 hn with rfl | hn
      · have hfar : farTx { s with ppus := p } (.ppu u n) = some (.ppu v m) :=
          (farTx_congr (s := s) (t := { s with ppus := p }) rfl (mcuControl_falls (hf 0)) _).trans hv
        exact ⟨((hl v).2 m).1 (resumeCable_clear hfar).1, ((hl v).2 m).2 (resumeCable_clear hfar).2⟩
      · exact hclear n hn m v hv
  rw [forcedResume_eq]
  obtain ⟨hp, hf, hclear⟩ := fold (List.finRange 8) s ⟨s.ppus, rfl⟩ fun w => .refl _
  exact ⟨hp, hf, fun n => hclear n (List.mem_finRange n)⟩

/-! ### The dead start of one PPU -/

/-- The address to which a step may be storing does not depend on output flags or on the parity register. -/
theorem storing_congr {q r : Ppu} (h : r = { q with outw := r.outw, outr := r.outr, parErr := r.parErr }) (w : PWrap) :
    r.storing w = q.storing w := by
  rw [h]
  rfl

theorem deadStart_clear (q : Ppu) (dump : Bool) (n : Cable) : (q.deadStart dump).inw[n] = false
    ∧ (q.deadStart dump).inr[n] = false ∧ (q.deadStart dump).outw[n] = false ∧ (q.deadStart dump).outr[n] = false := by
  simp [Ppu.deadStart]

/-- A dead start level at PPU `u`: that PPU is forced, whoever sends to it has its output flags cleared, and nothing else
changes. -/
theorem applyDeadStart_spec (s : State) (u : Unit16) (dump : Bool) :
    (∃ q v, FlagsFall s.ppus[u] q ∧ (applyDeadStart s u dump).ppus[u] = (q.cutShort s.cfg.pWrap v).deadStart dump)
    ∧ (∀ w : Unit16, w ≠ u → FlagsFall s.ppus[w] (applyDeadStart s u dump).ppus[w])
    ∧ (∀ w : Unit16, OutFall s.ppus[w] (applyDeadStart s u dump).ppus[w])
    ∧ ∀ (n m : Cable) (v : Unit16), farTx s (.ppu u n) = some (.ppu v m) →
      (applyDeadStart s u dump).ppus[v].outw[m] = false ∧ (applyDeadStart s u dump).ppus[v].outr[m] = false := by
  obtain ⟨⟨p, hp⟩, hf, hclear⟩ := forcedResume_spec s u
  have hself : (applyDeadStart s u dump).ppus[u] = ((forcedResume s u).ppus[u].cutShort s.cfg.pWrap
      (low (Config.draw s.tick (.cutShort u)))).deadStart dump := by
    rw [applyDeadStart, updPpu_getElem, if_pos rfl]
  have hother (w : Unit16) (h : w ≠ u) : (applyDeadStart s u dump).ppus[w] = (forcedResume s u).ppus[w] := by
    rw [applyDeadStart, updPpu_getElem, if_neg h.symm]
  have hclr (n : Cable) : (applyDeadStart s u dump).ppus[u].outw[n] = false
      ∧ (applyDeadStart s u dump).ppus[u].outr[n] = false := by
    rw [hself]
    exact (deadStart_clear _ dump n).2.2
  refine ⟨⟨_, _, hf u, hself⟩, fun w hw => hother w hw ▸ hf w, fun w => ?_, fun n m v hv => ?_⟩
  · by_cases hw : w = u
    · subst hw
      exact fun n => ⟨fun _ => (hclr n).1, fun _ => (hclr n).2⟩
    · exact hother w hw ▸ (hf w).2
  · by_cases hw : v = u
    · subst hw
      exact hclr m
    · rw [hother v hw]
      exact hclear n m v hv

/-! ### The levels one after the other -/

/-- A PPU with its parity register cleared, if `c`. -/
def Ppu.clearParity (c : Bool) (q : Ppu) : Ppu := { q with parErr := if c = true then 0 else q.parErr }

theorem clearParity_eq (s : State) (c : Bool) (u : Unit16) :
    (if c = true then updPpu s u (fun q => { q with parErr := 0 }) else s) = updPpu s u (Ppu.clearParity c) := by
  cases c
  · have hs : s.ppus.set u (Ppu.clearParity false s.ppus[u]) = s.ppus := Vector.set_getElem_self _
    simp only [Bool.false_eq_true, if_false, updPpu, hs]
  · rfl

/-- Changing a PPU's parity register leaves the word on MCU channel 0. -/
theorem mcuControl_clearParity (s : State) (c : Bool) (u : Unit16) :
    mcuControl (updPpu s u (Ppu.clearParity c)) = mcuControl s := by
  have hd : (updPpu s u (Ppu.clearParity c)).ppus[(0 : Unit16)].outData = s.ppus[(0 : Unit16)].outData := by
    rw [updPpu_getElem]
    split
    · rename_i e; subst e; rfl
    · rfl
  exact congrArg (fun v => v[(0 : Cable)]) hd

theorem clearParity_self (s : State) (c : Bool) (u : Unit16) :
    (updPpu s u (Ppu.clearParity c)).ppus[u] = s.ppus[u].clearParity c := by rw [updPpu_getElem, if_pos rfl]

theorem clearParity_other (s : State) (c : Bool) {u w : Unit16} (h : w ≠ u) :
    (updPpu s u (Ppu.clearParity c)).ppus[w] = s.ppus[w] := by rw [updPpu_getElem, if_neg h.symm]

theorem applySelected_dead {s : State} {u : Unit16} (h : mcuBit s 2 = true) :
    applySelected s u = applyDeadStart (updPpu s u (Ppu.clearParity (mcuBit s 0))) u (mcuBit s 1) := by
  simp only [applySelected, clearParity_eq, h, if_true]

theorem applySelected_dump {s : State} {u : Unit16} (h2 : mcuBit s 2 = false) (h1 : mcuBit s 1 = true) :
    applySelected s u = updPpu (updPpu s u (Ppu.clearParity (mcuBit s 0))) u Ppu.startDump := by
  simp only [applySelected, clearParity_eq, h1, h2, if_true, Bool.false_eq_true, if_false]

/-- The levels at the selected PPU do no more to another one than clear output flags. -/
theorem applySelected_other (s : State) {u w : Unit16} (h : w ≠ u) : FlagsFall s.ppus[w] (applySelected s u).ppus[w] := by
  have hp := clearParity_other s (mcuBit s 0) h
  unfold applySelected
  dsimp only
  rw [clearParity_eq]
  split
  · exact hp ▸ (applyDeadStart_spec _ u _).2.1 w h
  · split
    · rw [updPpu_getElem, if_neg h.symm, hp]
      exact .refl _
    · rw [hp]
      exact .refl _

theorem applyCpuLevels_ppus (s : State) : (applyCpuLevels s).ppus = s.ppus ∧ (applyCpuLevels s).cfg = s.cfg
    ∧ (applyCpuLevels s).mcuSwitch = s.mcuSwitch := by
  unfold applyCpuLevels
  dsimp only
  split <;> split <;> split <;> exact ⟨rfl, rfl, rfl⟩

theorem applyMcuLevels_eq (s : State) : applyMcuLevels s = if s.mcuSwitch = true
    then applyDeadStart (updPpu s 0 (Ppu.clearParity (mcuBit s 6))) 0 false
    else updPpu s 0 (Ppu.clearParity (mcuBit s 6)) := by
  simp only [applyMcuLevels, clearParity_eq]

/-- The levels at the MCU do no more to a PPU than clear output flags, and set none of the MCU's. -/
theorem applyMcuLevels_falls (s : State) : (∀ w : Unit16, w ≠ 0 → FlagsFall s.ppus[w] (applyMcuLevels s).ppus[w])
    ∧ ∀ w : Unit16, OutFall s.ppus[w] (applyMcuLevels s).ppus[w] := by
  have hout (w : Unit16) : OutFall s.ppus[w] (updPpu s 0 (Ppu.clearParity (mcuBit s 6))).ppus[w] := by
    rw [updPpu_getElem]
    split
    · rename_i e; subst e; exact fun n => ⟨id, id⟩
    · exact fun n => ⟨id, id⟩
  rw [applyMcuLevels_eq]
  obtain ⟨-, hf, hd, -⟩ := applyDeadStart_spec (updPpu s 0 (Ppu.clearParity (mcuBit s 6))) 0 false
  split
  · exact ⟨fun w hw => clearParity_other s (mcuBit s 6) hw ▸ hf w hw, fun w => (hout w).trans (hd w)⟩
  · exact ⟨fun w hw => by rw [clearParity_other s _ hw]; exact .refl _, hout⟩

/-- The state after the levels of the selected PPU. -/
def afterSelected (s : State) : State :=
  match scanTarget s with
  | some u => applySelected s u
  | none => s

theorem settle_eq (s : State) : settle s = resumeLevels (applyMcuLevels (applyCpuLevels (afterSelected s))) := rfl

theorem afterSelected_some {s : State} {u : Unit16} (h : scanTarget s = some u) : afterSelected s = applySelected s u := by
  simp only [afterSelected, h]

/-- What comes after the levels of the selected PPU clears output flags, and forces no PPU but the MCU. -/
theorem settle_falls (s : State) : (∀ w : Unit16, w ≠ 0 → FlagsFall (afterSelected s).ppus[w] (settle s).ppus[w])
    ∧ ∀ w : Unit16, OutFall (afterSelected s).ppus[w] (settle s).ppus[w] := by
  obtain ⟨hc, -, -⟩ := applyCpuLevels_ppus (afterSelected s)
  obtain ⟨hf, ho⟩ := applyMcuLevels_falls (applyCpuLevels (afterSelected s))
  rw [hc] at hf ho
  have hl (w : Unit16) := levelPpus_falls (applyMcuLevels (applyCpuLevels (afterSelected s))).cfg
    (applyMcuLevels (applyCpuLevels (afterSelected s))).mux (applyMcuLevels (applyCpuLevels (afterSelected s))).ppus w
  exact ⟨fun w hw => (hf w hw).trans (hl w), fun w => (ho w).trans (hl w).2⟩

/-- The MCU before its own levels act: its output flags may have been cleared by those of the selected PPU. -/
theorem afterSelected_mcu (s : State) : FlagsFall s.ppus[(0 : Unit16)] (afterSelected s).ppus[(0 : Unit16)]
    ∧ (afterSelected s).cfg = s.cfg ∧ (afterSelected s).mcuSwitch = s.mcuSwitch := by
  unfold afterSelected
  split
  · rename_i v hv
    obtain ⟨m, p, h⟩ := applySelected_onlyCables s v
    exact ⟨applySelected_other s (Ne.symm (scanTarget_some hv).1), by rw [h], by rw [h]⟩
  · exact ⟨.refl _, rfl, rfl⟩

/-! ### What the dead start level leaves -/

/-- `q` is what a dead start, with the dump bit or without, leaves of the PPU `u`. -/
def DeadStarted (wrap : PWrap) (dump : Bool) (u q : Ppu) : Prop :=
  ∃ r v, FlagsFall u r ∧ FlagsFall ((r.cutShort wrap v).deadStart dump) q

/-- A dead start level at a PPU whose parity register has been cleared or not. -/
theorem applyDeadStart_started (s : State) (u : Unit16) (c dump : Bool) :
    DeadStarted s.cfg.pWrap dump (s.ppus[u].clearParity c)
        (applyDeadStart (updPpu s u (Ppu.clearParity c)) u dump).ppus[u]
      ∧ ∀ (n m : Cable) (v : Unit16), farTx s (.ppu u n) = some (.ppu v m) →
        (applyDeadStart (updPpu s u (Ppu.clearParity c)) u dump).ppus[v].outw[m] = false
          ∧ (applyDeadStart (updPpu s u (Ppu.clearParity c)) u dump).ppus[v].outr[m] = false := by
  obtain ⟨⟨r, v, hr, hq⟩, -, -, hclear⟩ := applyDeadStart_spec (updPpu s u (Ppu.clearParity c)) u dump
  have hfar (n : Cable) : farTx (updPpu s u (Ppu.clearParity c)) (.ppu u n) = farTx s (.ppu u n) :=
    farTx_congr (s := s) (t := updPpu s u (Ppu.clearParity c)) rfl (mcuControl_clearParity s c u) _
  rw [clearParity_self] at hr
  exact ⟨⟨r, v, hr, by rw [hq]; exact .refl _⟩, fun n m w hw => hclear n m w ((hfar n).trans hw)⟩

theorem DeadStarted.falls {wrap : PWrap} {dump : Bool} {u q w : Ppu} (h : DeadStarted wrap dump u q) (k : FlagsFall q w) :
    DeadStarted wrap dump u w := by
  obtain ⟨r, v, hr, hq⟩ := h
  exact ⟨r, v, hr, hq.trans k⟩

theorem DeadStarted.of_falls {wrap : PWrap} {dump : Bool} {u r q : Ppu} (k : FlagsFall u r) (h : DeadStarted wrap dump r q) :
    DeadStarted wrap dump u q := by
  obtain ⟨r', v, hr, hq⟩ := h
  exact ⟨r', v, k.trans hr, hq⟩

theorem FlagsFall.clearParity {q r : Ppu} (h : FlagsFall q r) (c : Bool) : FlagsFall (q.clearParity c) (r.clearParity c) :=
  ⟨by rw [h.1]; rfl, h.2⟩

/-- A dead start level forces its PPU, whose parity register control bit 0, or 6 for the MCU, clears (R453), and clears the
output flags of whoever sends to it. -/
theorem settle_deadStart {s : State} {u : Unit16} (h : deadStartUp s u = true) :
    DeadStarted s.cfg.pWrap (decide (u ≠ 0) && mcuBit s 1) (s.ppus[u].clearParity (mcuBit s (if u = 0 then 6 else 0)))
        (settle s).ppus[u]
      ∧ ∀ (n m : Cable) (v : Unit16), farTx s (.ppu u n) = some (.ppu v m) →
        (settle s).ppus[v].outw[m] = false ∧ (settle s).ppus[v].outr[m] = false := by
  unfold deadStartUp at h
  by_cases h0 : u = 0
  · subst h0
    rw [if_pos rfl] at h
    obtain ⟨hmcu, hcfg, hsw⟩ := afterSelected_mcu s
    obtain ⟨hppus, hcfg', hsw'⟩ := applyCpuLevels_ppus (afterSelected s)
    rw [settle_eq]
    generalize applyCpuLevels (afterSelected s) = t at hppus hcfg' hsw' ⊢
    rw [← hppus] at hmcu
    have hctl : mcuControl t = mcuControl s := mcuControl_falls hmcu
    have hwrap : t.cfg = s.cfg := hcfg'.trans hcfg
    have hbit : mcuBit t 6 = mcuBit s 6 := by rw [mcuBit, hctl, mcuBit]
    have hl (w : Unit16) := levelPpus_falls (applyMcuLevels t).cfg (applyMcuLevels t).mux (applyMcuLevels t).ppus w
    obtain ⟨hd, hclear⟩ := applyDeadStart_started t 0 (mcuBit t 6) false
    have hm : applyMcuLevels t = applyDeadStart (updPpu t 0 (Ppu.clearParity (mcuBit t 6))) 0 false := by
      rw [applyMcuLevels_eq, if_pos (hsw'.trans (hsw.trans h))]
    rw [← hm] at hd hclear
    rw [hbit, hwrap] at hd
    refine ⟨(DeadStarted.of_falls (hmcu.clearParity _) hd).falls (hl 0), fun n m v hv => ?_⟩
    obtain ⟨h1, h2⟩ := hclear n m v ((farTx_congr hwrap hctl _).trans hv)
    exact ⟨((hl v).2 m).1 h1, ((hl v).2 m).2 h2⟩
  · rw [if_neg h0, Bool.and_eq_true, decide_eq_true_eq] at h
    obtain ⟨hlater, hout⟩ := settle_falls s
    obtain ⟨hd, hclear⟩ := applyDeadStart_started s u (mcuBit s 0) (mcuBit s 1)
    rw [← applySelected_dead h.2, ← afterSelected_some h.1] at hd hclear
    rw [if_neg h0, decide_eq_true h0, Bool.true_and]
    refine ⟨hd.falls (hlater u h0), fun n m v hv => ?_⟩
    obtain ⟨h1, h2⟩ := hclear n m v hv
    exact ⟨(hout v m).1 h1, (hout v m).2 h2⟩

/-- What a dead start forces, and what it leaves (R63, R474, R475, R477). -/
theorem DeadStarted.spec {wrap : PWrap} {dump : Bool} {u q : Ppu} (h : DeadStarted wrap dump u q) :
    q.a = 0o007777 ∧ q.p = 0 ∧ q.q = 0 ∧ q.x = 0 ∧ q.k = 1 ∧ q.stopped = false
      ∧ q.fd = (if dump then 0o7300 else 0o7100)
      ∧ q.iop = (if dump then .outBlock 0 true else .inBlock 0 true true)
      ∧ (∀ c : Cable, q.inw[c] = false ∧ q.inr[c] = false ∧ q.outw[c] = false ∧ q.outr[c] = false)
      ∧ q.outData = u.outData ∧ q.parErr = u.parErr
      ∧ ∀ b : Word12, u.storing wrap ≠ some b → q.read b = u.read b := by
  obtain ⟨r, v, ⟨hr, -⟩, hq, hout⟩ := h
  have hcut : (r.cutShort wrap v).outData = r.outData ∧ (r.cutShort wrap v).parErr = r.parErr := by
    unfold Ppu.cutShort
    split <;> exact ⟨rfl, rfl⟩
  have hclear (c : Cable) := deadStart_clear (r.cutShort wrap v) dump c
  have hinw : q.inw = ((r.cutShort wrap v).deadStart dump).inw := by rw [hq]
  have hinr : q.inr = ((r.cutShort wrap v).deadStart dump).inr := by rw [hq]
  have hstoring : r.storing wrap = u.storing wrap := storing_congr (by rw [hr]) wrap
  refine ⟨by rw [hq]; rfl, by rw [hq]; rfl, by rw [hq]; rfl, by rw [hq]; rfl, by rw [hq]; rfl, by rw [hq]; rfl,
    by rw [hq]; rfl, by rw [hq]; rfl, fun c => ⟨?_, ?_, (hout c).1 (hclear c).2.2.1, (hout c).2 (hclear c).2.2.2⟩, ?_, ?_,
    fun b hb => ?_⟩
  · rw [hinw]; exact (hclear c).1
  · rw [hinr]; exact (hclear c).2.1
  · calc q.outData = (r.cutShort wrap v).outData := by rw [hq]; rfl
      _ = u.outData := by rw [hcut.1, hr]
  · calc q.parErr = (r.cutShort wrap v).parErr := by rw [hq]; rfl
      _ = u.parErr := by rw [hcut.2, hr]
  · calc q.read b = (r.cutShort wrap v).read b := by rw [hq]; rfl
      _ = r.read b := cutShort_read v (hstoring ▸ hb)
      _ = u.read b := by rw [hr]; rfl

/-- A PPU whose dead start level is up takes no step. -/
theorem step_deadStartUp {s : State} {u : Unit16} (h : deadStartUp s u = true) (he : nextEvent s = .ppu u) :
    step s = .next (endStep (popEvent s)) := by
  have hr : ppuReady (popEvent s) u = false := by
    have hd : deadStartUp (popEvent s) u = true := h
    simp [ppuReady, hd]
  simp [step, he, turn, ppuTurn, hr, onNext]

/-! ### The dead dump -/

theorem startDump_frame (q : Ppu) : q.startDump = { q with iop := q.startDump.iop, fd := q.startDump.fd } := by
  unfold Ppu.startDump
  split <;> rfl

theorem startDump_boot {q : Ppu} {c : Cable} {first : Bool} (h : q.iop = .inBlock c first true) :
    q.startDump.iop = .outBlock 0 true ∧ q.startDump.fd = 0o7300 := by
  simp only [Ppu.startDump, h, and_self]

theorem startDump_other {q : Ppu} (h : ∀ c first, q.iop ≠ .inBlock c first true) : q.startDump = q := by
  unfold Ppu.startDump
  split
  · rename_i c first hi
    exact absurd hi (h c first)
  · rfl

/-- The dump bit alone: the selected PPU begins the dump, but for output flags that may be cleared. -/
theorem settle_dump {s : State} {u : Unit16} (h : scanTarget s = some u) (h2 : mcuBit s 2 = false) (h1 : mcuBit s 1 = true) :
    FlagsFall (s.ppus[u].clearParity (mcuBit s 0)).startDump (settle s).ppus[u] := by
  have hs := (settle_falls s).1 u (scanTarget_some h).1
  rwa [afterSelected_some h, applySelected_dump h2 h1, updPpu_getElem, if_pos rfl, clearParity_self] at hs

theorem reset_ppu (u : Unit16) : State.reset.ppus[u] = Ppu.reset := by simp [State.reset]

/-- Settles O8: the state at reset is written out, the dead start level leaves what `DeadStarted` says, and the dump bit
alone starts the dump. -/
theorem resetLeavesPpusLoading : Obligations.ResetLeavesPpusLoading := by
  refine ⟨fun u c => ?_, fun s u dump q h hdump hq => ?_, fun s u q h h2 h1 hq => ?_⟩
  · rw [reset_ppu]
    simp [Ppu.reset]
  · obtain ⟨hd, hclear⟩ := settle_deadStart h
    rw [← hdump, ← hq] at hd
    obtain ⟨ha, hp, hqq, hx, hk, hst, hfd, hiop, hflags, hout, hpar, hread⟩ := hd.spec
    have hstoring : (s.ppus[u].clearParity (mcuBit s (if u = 0 then 6 else 0))).storing s.cfg.pWrap
        = s.ppus[u].storing s.cfg.pWrap := storing_congr rfl _
    exact ⟨ha, hp, hqq, hx, hk, hst, hfd, hiop, hflags, hout, hpar, fun b hb => hread b (hstoring ▸ hb), hclear,
      step_deadStartUp h⟩
  · obtain ⟨hf, -⟩ := settle_dump h h2 h1
    rw [← hq] at hf
    have hframe := startDump_frame (s.ppus[u].clearParity (mcuBit s 0))
    refine ⟨fun ⟨c, first, hi⟩ => ?_, fun hi => ?_, ?_⟩
    · have hb := startDump_boot (q := s.ppus[u].clearParity (mcuBit s 0)) hi
      rw [hf]
      exact hb
    · rw [hf, startDump_other (q := s.ppus[u].clearParity (mcuBit s 0)) hi]
      exact ⟨rfl, rfl⟩
    · rw [hf, hframe]
      exact ⟨rfl, rfl, rfl, rfl, rfl, rfl, rfl⟩

end Sys2Proof.Machine
end

section
/-!
The exchange package (10_state.md R41): a field put into a word reads back, and so a package that an exchange jump has
stored decodes to the registers it was made from, in any layout whose fields stand apart.
-/

namespace Sys2Proof.Machine

open Sys2Proof

/-! ### Fields of a word -/

/-- The `width` bits of a word from bit `lsb` on. -/
def fieldAt (v : Word60) (lsb width : Nat) : Nat := (v.toNat >>> lsb) % 2 ^ width

theorem getField_eq (pkg : List Word60) (at_ : Slot) (width : Nat) :
    getField pkg at_ width = fieldAt (pkg.getD at_.word 0) at_.lsb width := rfl

theorem testBit_fieldAt (v : Word60) (lsb width i : Nat) :
    (fieldAt v lsb width).testBit i = (decide (i < width) && v.getLsbD (lsb + i)) := by
  rw [fieldAt, Nat.testBit_mod_two_pow, Nat.testBit_shiftRight, BitVec.getLsbD]

/-- A field put into a word: its own bits are the value's, the others as before. -/
theorem getLsbD_putField (v : Word60) (lsb width value : Nat) {n : Nat} (hn : n < 60) :
    (putField v lsb width value).getLsbD n
      = if lsb ≤ n ∧ n < lsb + width then value.testBit (n - lsb) else v.getLsbD n := by
  unfold putField
  simp only [BitVec.getLsbD_or, BitVec.getLsbD_and, BitVec.getLsbD_not, BitVec.getLsbD_shiftLeft, BitVec.getLsbD_ofNat,
    Nat.testBit_two_pow_sub_one, Nat.testBit_mod_two_pow, hn]
  by_cases h1 : lsb ≤ n <;> by_cases h2 : n < lsb + width
  · have h3 : n - lsb < width := by omega
    have h4 : n - lsb < 60 := by omega
    simp [h1, h2, h3, h4, Nat.not_lt.2 h1]
  · have h3 : ¬ n - lsb < width := by omega
    simp [h2, h3]
  · simp [h1, Nat.not_le.1 h1]
  · simp [h1, Nat.not_le.1 h1]

theorem fieldAt_putField_same (v : Word60) {lsb width value : Nat} (hw : lsb + width ≤ 60) (hv : value < 2 ^ width) :
    fieldAt (putField v lsb width value) lsb width = value := by
  refine Nat.eq_of_testBit_eq fun i => ?_
  rw [testBit_fieldAt]
  by_cases hi : i < width
  · have hc : lsb ≤ lsb + i ∧ lsb + i < lsb + width := by omega
    rw [getLsbD_putField _ _ _ _ (by omega), if_pos hc, decide_eq_true hi, Bool.true_and, Nat.add_sub_cancel_left]
  · rw [decide_eq_false hi, Bool.false_and,
      Nat.testBit_lt_two_pow (hv.trans_le (Nat.pow_le_pow_right (by decide) (Nat.not_lt.1 hi)))]

/-- A field put beside another leaves it. -/
theorem fieldAt_putField_other (v : Word60) {lsb width lsb' width' : Nat} (value : Nat) (hw : lsb + width ≤ 60)
    (hd : lsb + width ≤ lsb' ∨ lsb' + width' ≤ lsb) :
    fieldAt (putField v lsb' width' value) lsb width = fieldAt v lsb width := by
  refine Nat.eq_of_testBit_eq fun i => ?_
  rw [testBit_fieldAt, testBit_fieldAt]
  by_cases hi : i < width
  · have hc : ¬ (lsb' ≤ lsb + i ∧ lsb + i < lsb' + width') := by omega
    rw [getLsbD_putField _ _ _ _ (by omega), if_neg hc]
  · rw [decide_eq_false hi, Bool.false_and, Bool.false_and]

/-! ### Fields of a package -/

/-- A field's place: its slot and its width. -/
def placeOf (f : Slot × Nat × Nat) : Slot × Nat := (f.1, f.2.1)

/-- Two places do not overlap. -/
def PlacesApart (f g : Slot × Nat) : Prop := f.1.word ≠ g.1.word ∨ f.1.lsb + f.2 ≤ g.1.lsb ∨ g.1.lsb + g.2 ≤ f.1.lsb

/-- A place lies inside one of the sixteen words. -/
def PlaceInside (f : Slot × Nat) : Prop := f.1.word < 16 ∧ f.1.lsb + f.2 ≤ 60

/-- The places of a layout, in the order of `pkgFields`. -/
def pkgPlaces (l : PkgLayout) : List (Slot × Nat) := (pkgFields l Cpu.reset 0).map placeOf

theorem map_placeOf_pkgFields (l : PkgLayout) (c : Cpu) (p : Word18) : (pkgFields l c p).map placeOf = pkgPlaces l := by
  simp [pkgPlaces, pkgFields, placeOf, Function.comp_def]

/-- The fields of a layout stand apart, inside the package. -/
def LayoutApart (l : PkgLayout) : Prop := (pkgPlaces l).Pairwise PlacesApart ∧ ∀ f ∈ pkgPlaces l, PlaceInside f

/-- So they do in the layout of D1. -/
theorem layoutApart_default : LayoutApart Config.defaultLayout := by
  unfold LayoutApart PlacesApart PlaceInside
  decide +kernel

/-- Putting in fields that stand apart from one leaves it. -/
theorem fieldAt_pkgWord_other {f : Slot × Nat} (hf : f.1.lsb + f.2 ≤ 60) {fields : List (Slot × Nat × Nat)}
    (hd : ∀ g ∈ fields, PlacesApart f (placeOf g)) (base : Word60) :
    fieldAt (pkgWord fields f.1.word base) f.1.lsb f.2 = fieldAt base f.1.lsb f.2 := by
  induction fields generalizing base with
  | nil => rfl
  | cons g fs ih =>
    have hg : PlacesApart f (placeOf g) := hd g List.mem_cons_self
    have hcons : pkgWord (g :: fs) f.1.word base
        = pkgWord fs f.1.word (if g.1.word = f.1.word then putField base g.1.lsb g.2.1 g.2.2 else base) := rfl
    rw [hcons, ih fun g' hg' => hd g' (List.mem_cons_of_mem g hg')]
    split
    · rename_i he
      exact fieldAt_putField_other base _ hf (hg.resolve_left fun hne => hne he.symm)
    · rfl

/-- A field of a package word reads as it was put in, whatever the bits that belong to no field. -/
theorem fieldAt_pkgWord {fields : List (Slot × Nat × Nat)} (hd : (fields.map placeOf).Pairwise PlacesApart)
    {f : Slot × Nat × Nat} (hf : f ∈ fields) (hw : f.1.lsb + f.2.1 ≤ 60) (hv : f.2.2 < 2 ^ f.2.1) (base : Word60) :
    fieldAt (pkgWord fields f.1.word base) f.1.lsb f.2.1 = f.2.2 := by
  induction fields generalizing base with
  | nil => cases hf
  | cons g fs ih =>
    rw [List.map_cons, List.pairwise_cons] at hd
    have hcons : pkgWord (g :: fs) f.1.word base
        = pkgWord fs f.1.word (if g.1.word = f.1.word then putField base g.1.lsb g.2.1 g.2.2 else base) := rfl
    rw [hcons]
    rcases List.mem_cons.1 hf with rfl | hf
    · rw [if_pos rfl]
      have ho := fieldAt_pkgWord_other (f := placeOf f) hw (fields := fs)
        (fun g hg => hd.1 (placeOf g) (List.mem_map_of_mem hg)) (putField base f.1.lsb f.2.1 f.2.2)
      exact ho.trans (fieldAt_putField_same base hw hv)
    · exact ih hd.2 hf _

/-- The package `pkg` holds the registers of `c`, with `p` for P, in the layout `l`; bits of no field are open. -/
def Holds (l : PkgLayout) (c : Cpu) (p : Word18) (pkg : List Word60) : Prop :=
  ∀ w < 16, ∃ base, pkg.getD w 0 = pkgWord (pkgFields l c p) w base

section Decode

variable {l : PkgLayout} {c : Cpu} {p : Word18} {pkg : List Word60}

theorem Holds.getField_eq (h : Holds l c p pkg) (hl : LayoutApart l) {f : Slot × Nat × Nat} (hf : f ∈ pkgFields l c p)
    (hv : f.2.2 < 2 ^ f.2.1) : getField pkg f.1 f.2.1 = f.2.2 := by
  have hplaces := map_placeOf_pkgFields l c p
  obtain ⟨hword, hw⟩ := hl.2 (placeOf f) (hplaces ▸ List.mem_map_of_mem hf)
  obtain ⟨base, hb⟩ := h f.1.word hword
  rw [Machine.getField_eq, hb]
  exact fieldAt_pkgWord (hplaces ▸ hl.1) hf hw hv base

/-- A register field reads back. -/
theorem Holds.ofNat_getField (h : Holds l c p pkg) (hl : LayoutApart l) {n : Nat} {at_ : Slot} {v : BitVec n}
    (hf : (at_, n, v.toNat) ∈ pkgFields l c p) : BitVec.ofNat n (getField pkg at_ n) = v := by
  rw [h.getField_eq hl hf v.isLt, BitVec.ofNat_toNat, BitVec.setWidth_eq]

theorem Holds.a (h : Holds l c p pkg) (hl : LayoutApart l) (n : Fin 8) :
    BitVec.ofNat 18 (getField pkg l.a[n] 18) = c.a[n] :=
  h.ofNat_getField hl (List.mem_append_left _ (List.mem_append_left _ (List.mem_append_right _
    (List.mem_map.2 ⟨n, List.mem_finRange n, rfl⟩))))

theorem Holds.b (h : Holds l c p pkg) (hl : LayoutApart l) (n : Fin 7) :
    BitVec.ofNat 18 (getField pkg l.b[n] 18) = c.b[n.val + 1]'(by omega) :=
  h.ofNat_getField hl (List.mem_append_left _ (List.mem_append_right _
    (List.mem_map.2 ⟨n, List.mem_finRange n, rfl⟩)))

theorem Holds.x (h : Holds l c p pkg) (hl : LayoutApart l) (n : Fin 8) : pkg.getD l.x[n] 0 = c.x[n] := by
  have hx := h.ofNat_getField hl (at_ := ⟨l.x[n], 0⟩) (v := c.x[n])
    (List.mem_append_right _ (List.mem_map.2 ⟨n, List.mem_finRange n, rfl⟩))
  rw [Machine.getField_eq, fieldAt, Nat.shiftRight_zero, Nat.mod_eq_of_lt (BitVec.isLt _), BitVec.ofNat_toNat,
    BitVec.setWidth_eq] at hx
  exact hx

/-- B1 to B7 of a package stand at the places of the layout. -/
theorem pkgDecode_b_succ (l : PkgLayout) (pkg : List Word60) (d : Cpu) (n : Fin 7) :
    (pkgDecode l pkg d).b[n.val + 1]'(by omega) = BitVec.ofNat 18 (getField pkg l.b[n] 18) := by
  fin_cases n <;> rfl

/-- A package decodes to the registers that it holds. -/
theorem Holds.sameRegisters (h : Holds l c p pkg) (hl : LayoutApart l) (hb : c.b[0] = 0) (d : Cpu) :
    sameRegisters (pkgDecode l pkg d) { c with p := p } := by
  have field {n : Nat} {at_ : Slot} {v : BitVec n} (hf : (at_, n, v.toNat) ∈ pkgFields l c p) := h.ofNat_getField hl hf
  refine ⟨field ?_, field ?_, field ?_, field ?_, field ?_, field ?_, field ?_, field ?_, field ?_, ?_, ?_, ?_⟩
  iterate 9 simp [pkgFields]
  · refine Vector.ext fun i hi => ?_
    simp only [pkgDecode, Vector.getElem_map]
    exact h.a hl ⟨i, hi⟩
  · refine Vector.ext fun i hi => ?_
    simp only [pkgDecode, Vector.getElem_map]
    exact h.x hl ⟨i, hi⟩
  · refine Vector.ext fun i hi => ?_
    cases i with
    | zero => exact hb.symm
    | succ n => exact (pkgDecode_b_succ l pkg d ⟨n, by omega⟩).trans (h.b hl ⟨n, by omega⟩)

end Decode

end Sys2Proof.Machine
end

section
/-!
The exchange jump as a whole (60_exceptions.md R412), where nothing comes between its steps: 32 references in any order in
which each word is read before it is written, and the load.
-/

namespace Sys2Proof.Machine

open Sys2Proof

/-- The sequence after word `w` has been read as `v`. -/
def Exchange.reading (x : Exchange) (w : Fin 16) (v : Word60) : Exchange := { x with got := x.got.set w (some v) }

/-- The sequence after word `w` has been written. -/
def Exchange.writing (x : Exchange) (w : Fin 16) : Exchange := { x with put := x.put.set w true }

theorem reading_got_same (x : Exchange) (w : Fin 16) (v : Word60) : (x.reading w v).got[w] = some v := by
  simp [Exchange.reading]

theorem reading_got_other (x : Exchange) {u w : Fin 16} (v : Word60) (h : u ≠ w) : (x.reading w v).got[u] = x.got[u] :=
  vec_set_other _ _ h

theorem writing_put_same (x : Exchange) (w : Fin 16) : (x.writing w).put[w] = true := by
  simp [Exchange.writing]

theorem writing_put_other (x : Exchange) {u w : Fin 16} (h : u ≠ w) : (x.writing w).put[u] = x.put[u] :=
  vec_set_other _ _ h

/-! ### How many references are left -/

/-- The references that a word of the package still needs. -/
def wordRefs (x : Exchange) (w : Fin 16) : Nat := if x.put[w] = true then 0 else if x.got[w].isSome = true then 1 else 2

/-- The references that the sequence still makes. -/
def refsLeft (x : Exchange) : Nat := ∑ w : Fin 16, wordRefs x w

/-- A reference that concerns one word alone. -/
theorem refsLeft_of_word {x y : Exchange} {w : Fin 16} (h : wordRefs x w = wordRefs y w + 1)
    (ho : ∀ v, v ≠ w → wordRefs x v = wordRefs y v) : refsLeft x = refsLeft y + 1 := by
  have hx := Finset.add_sum_erase Finset.univ (wordRefs x) (Finset.mem_univ w)
  have hy := Finset.add_sum_erase Finset.univ (wordRefs y) (Finset.mem_univ w)
  have hs : ∑ v ∈ Finset.univ.erase w, wordRefs x v = ∑ v ∈ Finset.univ.erase w, wordRefs y v :=
    Finset.sum_congr rfl fun v hv => ho v (Finset.ne_of_mem_erase hv)
  unfold refsLeft
  omega

theorem refsLeft_reading {x : Exchange} {w : Fin 16} (v : Word60) (hp : x.put[w] = false) (hg : x.got[w].isNone = true) :
    refsLeft x = refsLeft (x.reading w v) + 1 := by
  have hn : x.got[w].isSome = false := by rw [Option.isNone_iff_eq_none.1 hg]; rfl
  have hp' : (x.reading w v).put[w] = false := hp
  refine refsLeft_of_word (w := w) ?_ fun u hu => ?_
  · simp only [wordRefs, hp, hn, hp', reading_got_same, Option.isSome_some, if_true, Bool.false_eq_true, if_false]
  · simp only [wordRefs, reading_got_other x v hu]
    rfl

theorem refsLeft_writing {x : Exchange} {w : Fin 16} (hp : x.put[w] = false) (hg : x.got[w].isSome = true) :
    refsLeft x = refsLeft (x.writing w) + 1 := by
  refine refsLeft_of_word (w := w) ?_ fun u hu => ?_
  · simp only [wordRefs, hp, hg, writing_put_same, if_true, Bool.false_eq_true, if_false]
  · simp only [wordRefs, writing_put_other x hu]
    rfl

/-- The load comes when no reference is left. -/
theorem refsLeft_eq_zero (x : Exchange) : refsLeft x = 0 ↔ ∀ w : Fin 16, x.put[w] = true := by
  unfold refsLeft
  rw [Finset.sum_eq_zero_iff]
  refine forall_congr' fun w => ?_
  simp only [Finset.mem_univ, forall_true_left, wordRefs]
  split
  · simp [*]
  · split <;> simp [*]

/-! ### The middle of a sequence -/

/-- `s` is in the middle of the sequence `x` for the package at `a`, which began in `s0`: nothing but the package's words has
changed, those read are what the package held, and those written hold what the CPU sends. -/
structure Midway (s0 : State) (x0 : Exchange) (s : State) (x : Exchange) : Prop where
  phase : s.cpu.phase = .exchanging x
  same : x = { x0 with got := x.got, put := x.put }
  frame : s = { s0 with cpu := { s0.cpu with phase := .exchanging x }, scm := s.scm, tick := s.tick }
  count : s.tick + refsLeft x = s0.tick + 32
  readFirst : ∀ w : Fin 16, x.put[w] = true → x.got[w].isSome = true
  read : ∀ (w : Fin 16) (v : Word60), x.got[w] = some v → v = memRead s0.scm (pkgAddr x0.addr w).toNat
  unwritten : ∀ w : Fin 16, x.put[w] = false →
    memRead s.scm (pkgAddr x0.addr w).toNat = memRead s0.scm (pkgAddr x0.addr w).toNat
  written : ∀ w : Fin 16, x.put[w] = true →
    ∃ k, memRead s.scm (pkgAddr x0.addr w).toNat = exchangeOut { s0 with tick := k } x0 w
  outside : ∀ n, ¬ inPkg x0.addr n → memRead s.scm n = memRead s0.scm n

/-- What the CPU sends depends on its registers and not on how far the sequence has come. -/
theorem exchangeOut_congr {s0 s : State} {x0 x : Exchange} {w : Nat}
    (hs : s = { s0 with cpu := { s0.cpu with phase := .exchanging x }, scm := s.scm, tick := s.tick })
    (hx : x = { x0 with got := x.got, put := x.put }) :
    exchangeOut s x w = exchangeOut { s0 with tick := s.tick } x0 w := by
  rw [hs, hx]
  rfl

section Sequence

variable {s0 s : State} {x0 x : Exchange}

theorem Midway.noParity (h : Midway s0 x0 s x) (hn : NoParity s0) : NoParity s := by
  rw [h.frame]
  exact hn

theorem Midway.quiet (h : Midway s0 x0 s x) (hq : Quiet s0) : Quiet s := by
  rw [h.frame]
  exact hq

/-- All of SCM is there. -/
theorem scmExists_full {s : State} (h : s.cfg.scmWords = 65536) (a : ScmAddr) : scmExists s a = true := by
  have ha := a.isLt
  simp only [scmExists, h, decide_eq_true_eq]
  omega

/-- Two different words of a package. -/
theorem pkgAddr_ne (a : ScmAddr) {v w : Fin 16} (h : v ≠ w) : (pkgAddr a v).toNat ≠ (pkgAddr a w).toNat :=
  fun e => h (Fin.ext (pkgAddr_inj a v.isLt w.isLt e))

theorem Midway.addr (h : Midway s0 x0 s x) : x.addr = x0.addr := by rw [h.same]

/-- After the read of a word. -/
theorem Midway.reading (h : Midway s0 x0 s x) {w : Fin 16} (hp : x.put[w] = false) (hg : x.got[w].isNone = true)
    {v : Word60} (hv : v = memRead s0.scm (pkgAddr x0.addr w).toNat) :
    Midway s0 x0 { s with cpu := { s.cpu with phase := .exchanging (x.reading w v) }, tick := s.tick + 1 }
      (x.reading w v) where
  phase := rfl
  same := congrArg (fun z : Exchange => { z with got := (x.reading w v).got }) h.same
  frame := congrArg (fun z : State => { z with
    cpu := { z.cpu with phase := .exchanging (x.reading w v) }, tick := s.tick + 1 }) h.frame
  count := by
    have hc := h.count
    have hr := refsLeft_reading v hp hg
    dsimp only
    omega
  readFirst u hu := by
    by_cases e : u = w
    · subst e
      rw [reading_got_same]
      rfl
    · rw [reading_got_other x v e]
      exact h.readFirst u hu
  read u z hz := by
    by_cases e : u = w
    · subst e
      rw [reading_got_same, Option.some.injEq] at hz
      exact hz.symm.trans hv
    · exact h.read u z ((reading_got_other x v e).symm.trans hz)
  unwritten := h.unwritten
  written := h.written
  outside := h.outside

/-- After the write of a word, which exists. -/
theorem Midway.writing (h : Midway s0 x0 s x) {w : Fin 16} (hexists : scmExists s (pkgAddr x0.addr w) = true)
    (hp : x.put[w] = false) (hg : x.got[w].isSome = true) :
    Midway s0 x0 { s with
      scm := (scmPut s (pkgAddr x0.addr w) (exchangeOut s x w)).scm
      cpu := { s.cpu with phase := .exchanging (x.writing w) }, tick := s.tick + 1 } (x.writing w) := by
  obtain ⟨-, hother, hself⟩ := scmPut_spec s (pkgAddr x0.addr w) (exchangeOut s x w)
  rw [if_pos hexists] at hself
  exact {
    phase := rfl
    same := congrArg (fun z : Exchange => { z with put := (x.writing w).put }) h.same
    frame := congrArg (fun z : State => { z with
      scm := (scmPut s (pkgAddr x0.addr w) (exchangeOut s x w)).scm
      cpu := { z.cpu with phase := .exchanging (x.writing w) }, tick := s.tick + 1 }) h.frame
    count := by
      have hc := h.count
      have hr := refsLeft_writing hp hg
      dsimp only
      omega
    readFirst := fun u hu => by
      by_cases e : u = w
      · subst e; exact hg
      · exact h.readFirst u ((writing_put_other x e).symm.trans hu)
    read := h.read
    unwritten := fun u hu => by
      have e : u ≠ w := by
        rintro rfl
        rw [writing_put_same] at hu
        cases hu
      exact (hother _ (pkgAddr_ne x0.addr e)).trans (h.unwritten u ((writing_put_other x e).symm.trans hu))
    written := fun u hu => by
      by_cases e : u = w
      · subst e
        exact ⟨s.tick, hself.trans (exchangeOut_congr h.frame h.same)⟩
      · obtain ⟨k, hk⟩ := h.written u ((writing_put_other x e).symm.trans hu)
        exact ⟨k, (hother _ (pkgAddr_ne x0.addr e)).trans hk⟩
    outside := fun n hn => (hother n fun e => hn ⟨w, w.isLt, e⟩).trans (h.outside n hn) }

/-- A step of the sequence while references are left makes one of them. -/
theorem Midway.step (h : Midway s0 x0 s x) (hq : Quiet s0) (hn : NoParity s0) (hfull : s0.cfg.scmWords = 65536)
    {k : Nat} (hk : refsLeft x = k + 1) : ∃ t y, step s = .next t ∧ Midway s0 x0 t y ∧ refsLeft y = k := by
  have hquiet := h.quiet hq
  have hbad : s.scmBad = [] := (h.noParity hn).1
  have hexists (w : Fin 16) : scmExists s (pkgAddr x0.addr w) = true :=
    scmExists_full (by rw [h.frame]; exact hfull) _
  obtain ⟨w, hw⟩ : ∃ w, exchangeWord s x = some w := by
    refine Option.ne_none_iff_exists'.1 fun hnone => ?_
    have hzero := (refsLeft_eq_zero x).2 (exchangeWord_none.1 hnone)
    omega
  have hp := exchangeWord_some hw
  cases hg : x.got[w].isNone
  · have hg' : x.got[w].isSome = true := Option.isNone_eq_false_iff.1 hg
    have hr := refsLeft_writing hp hg'
    have hwrite : exchangeWrite s x w = { s with
        scm := (scmPut s (pkgAddr x0.addr w) (exchangeOut s x w)).scm
        cpu := { s.cpu with phase := .exchanging (x.writing w) } } := by
      rw [← h.addr]
      exact exchangeWrite_spec x w hbad
    refine ⟨_, x.writing w, ?_, h.writing (hexists w) hp hg', by omega⟩
    rw [step_exchanging hquiet h.phase]
    simp only [exchangeStep, hw, hg, hwrite]
    rw [if_neg Bool.false_ne_true, endStep_idle]
    · rfl
    · exact hquiet.1
  · have hv : scmValue s 200 (pkgAddr x.addr w) = memRead s0.scm (pkgAddr x0.addr w).toNat := by
      rw [h.addr, scmValue_none hbad (hexists w), h.unwritten w hp]
    have hr := refsLeft_reading (memRead s0.scm (pkgAddr x0.addr w).toNat) hp hg
    refine ⟨_, x.reading w _, ?_, h.reading hp hg rfl, by omega⟩
    rw [step_exchanging hquiet h.phase]
    simp only [exchangeStep, hw, hg, exchangeRead_spec x w hbad, hv, if_true]
    rw [endStep_idle]
    · rfl
    · exact hquiet.1

/-- The words read, once every word has been, are the package as it was. -/
theorem Midway.got_eq (h : Midway s0 x0 s x) (hall : ∀ w : Fin 16, x.put[w] = true) :
    x.got.toList.map (·.getD 0) = pkgAt s0 x0.addr := by
  refine List.ext_getElem (by simp [pkgAt]) fun n h1 h2 => ?_
  have hn : n < 16 := by simpa using h1
  obtain ⟨v, hv⟩ := Option.isSome_iff_exists.1 (h.readFirst ⟨n, hn⟩ (hall ⟨n, hn⟩))
  have hread := h.read ⟨n, hn⟩ v hv
  simp only [Fin.getElem_fin] at hv
  simp only [pkgAt, List.getElem_map, Vector.getElem_toList, List.getElem_range, hv, Option.getD_some]
  exact hread

/-- The whole sequence that began in `s0` has come to the load, in the state `t`. -/
structure Loaded (s0 : State) (x0 : Exchange) (t : State) : Prop where
  cpu : t.cpu = beginInterval (pkgDecode s0.cfg.layout (pkgAt s0 x0.addr) s0.cpu)
  frame : t = { s0 with cpu := t.cpu, scm := t.scm, tick := s0.tick + 33 }
  written : ∀ w : Fin 16, ∃ k, memRead t.scm (pkgAddr x0.addr w).toNat = exchangeOut { s0 with tick := k } x0 w
  outside : ∀ n, ¬ inPkg x0.addr n → memRead t.scm n = memRead s0.scm n

/-- The last step of the sequence is the load. -/
theorem Midway.load (h : Midway s0 x0 s x) (hq : Quiet s0) (hlate : s0.cpu.parityLate = false) (hk : refsLeft x = 0) :
    ∃ t, Machine.step s = .next t ∧ Loaded s0 x0 t := by
  have hall := (refsLeft_eq_zero x).1 hk
  have hlate' : s.cpu.parityLate = false := by rw [h.frame]; exact hlate
  have hquiet := h.quiet hq
  have htick : s.tick = s0.tick + 32 := by
    have hc := h.count
    omega
  have hcpu : beginInterval (pkgDecode s.cfg.layout (pkgAt s0 x0.addr) s.cpu) =
      beginInterval (pkgDecode s0.cfg.layout (pkgAt s0 x0.addr) s0.cpu) := by
    rw [h.frame]
    rfl
  have hload : exchangeStep s x =
      { s with cpu := beginInterval (pkgDecode s0.cfg.layout (pkgAt s0 x0.addr) s0.cpu) } := by
    simp only [exchangeStep, exchangeWord_none.2 hall, exchangeLoad, h.got_eq hall, hlate', Bool.false_eq_true, if_false, hcpu]
  refine ⟨ticked s (exchangeStep s x), ?_, ?_⟩
  · rw [step_exchanging hquiet h.phase, endStep_idle] <;> rw [hload]
    · rfl
    · exact hquiet.1
  · rw [hload]
    exact {
      cpu := rfl
      frame := by
        rw [ticked, htick]
        exact congrArg (fun z : State => { z with
          cpu := beginInterval (pkgDecode s0.cfg.layout (pkgAt s0 x0.addr) s0.cpu), tick := s0.tick + 33 }) h.frame
      written := fun w => h.written w (hall w)
      outside := h.outside }

/-- From the middle of a sequence the references left and the load complete it. -/
theorem Midway.complete (hq : Quiet s0) (hn : NoParity s0) (hfull : s0.cfg.scmWords = 65536)
    (hlate : s0.cpu.parityLate = false) {k : Nat} (h : Midway s0 x0 s x) (hk : refsLeft x = k) :
    ∃ t, steps (k + 1) s = .next t ∧ Loaded s0 x0 t := by
  induction k generalizing s x with
  | zero =>
    obtain ⟨t, ht, hl⟩ := h.load hq hlate hk
    exact ⟨t, by simp only [steps, ht], hl⟩
  | succ k ih =>
    obtain ⟨t, y, ht, hy, hyk⟩ := h.step hq hn hfull hk
    obtain ⟨u, hu, hl⟩ := ih hy hyk
    refine ⟨u, ?_, hl⟩
    rw [steps, ht]
    exact hu

end Sequence

end Sys2Proof.Machine
end

section
/-!
The exchange jump from its beginning (R412), and the one that follows a dead start (R473).
-/

namespace Sys2Proof.Machine

open Sys2Proof

/-- The sequence at its beginning: nothing read, nothing written. -/
def newExchange (a : ScmAddr) (p : Word18) (who : Initiator) : Exchange :=
  ⟨a, p, who, Vector.replicate 16 none, Vector.replicate 16 false⟩

theorem newExchange_got (a : ScmAddr) (p : Word18) (who : Initiator) (w : Fin 16) : (newExchange a p who).got[w] = none := by
  simp [newExchange]

theorem newExchange_put (a : ScmAddr) (p : Word18) (who : Initiator) (w : Fin 16) : (newExchange a p who).put[w] = false := by
  simp [newExchange]

/-- Each word is still to be read and to be written. -/
theorem wordRefs_newExchange (a : ScmAddr) (p : Word18) (who : Initiator) (w : Fin 16) :
    wordRefs (newExchange a p who) w = 2 := by
  rw [wordRefs, newExchange_put, newExchange_got]
  rfl

theorem refsLeft_newExchange (a : ScmAddr) (p : Word18) (who : Initiator) : refsLeft (newExchange a p who) = 32 := by
  simp only [refsLeft, wordRefs_newExchange, Finset.sum_const, Finset.card_univ, Fintype.card_fin, smul_eq_mul]

/-- An exchange that has just begun stands at the beginning of its own sequence. -/
theorem midway_newExchange (s : State) (a : ScmAddr) (p : Word18) (who : Initiator) :
    Midway (exchangeJump s a p who) (newExchange a p who) (exchangeJump s a p who) (newExchange a p who) where
  phase := rfl
  same := rfl
  frame := rfl
  count := by rw [refsLeft_newExchange]
  readFirst w hw := by rw [newExchange_put] at hw; cases hw
  read w v hv := by rw [newExchange_got] at hv; cases hv
  unwritten _ _ := rfl
  written w hw := by rw [newExchange_put] at hw; cases hw
  outside _ _ := rfl

/-- Where nothing comes between, the exchange is complete after its 32 references and the load. -/
theorem exchangeJump_loaded {s : State} (a : ScmAddr) (p : Word18) (who : Initiator) (hq : Quiet s) (hn : NoParity s)
    (hfull : s.cfg.scmWords = 65536) :
    ∃ t, steps 33 (exchangeJump s a p who) = .next t ∧ Loaded (exchangeJump s a p who) (newExchange a p who) t :=
  Midway.complete (s0 := exchangeJump s a p who) hq hn hfull rfl (midway_newExchange s a p who)
    (refsLeft_newExchange a p who)

/-- A word of the package in place. -/
theorem pkgAt_getD (s : State) (a : ScmAddr) {w : Nat} (hw : w < 16) :
    (pkgAt s a).getD w 0 = memRead s.scm (pkgAddr a w).toNat := by
  simp [pkgAt, List.getD_eq_getElem?_getD, hw]

section Sequence

variable {s t : State} {a : ScmAddr} {p : Word18} {who : Initiator}

/-- Unless it follows a dead start, the exchange leaves the registers in the package. -/
theorem Loaded.holds (h : Loaded (exchangeJump s a p who) (newExchange a p who) t) (hwho : who ≠ .deadStart) :
    Holds s.cfg.layout s.cpu p (pkgAt t a) := by
  intro w hw
  obtain ⟨k, hk⟩ := h.written ⟨w, hw⟩
  refine ⟨Config.draw k (.pkgSpare w), ?_⟩
  rw [pkgAt_getD t a hw]
  exact hk.trans (if_neg hwho)

/-- The registers after it are those of the package that it found. -/
theorem Loaded.registers (h : Loaded (exchangeJump s a p who) (newExchange a p who) t) :
    sameRegisters t.cpu (pkgDecode s.cfg.layout (pkgAt s a) s.cpu) := by
  rw [h.cpu]
  exact ⟨rfl, rfl, rfl, rfl, rfl, rfl, rfl, rfl, rfl, rfl, rfl, rfl⟩

/-- An execution interval begins (R412). -/
theorem Loaded.interval (h : Loaded (exchangeJump s a p who) (newExchange a p who) t) :
    t.cpu.iws = [] ∧ t.cpu.parcel = 0 ∧ t.cpu.slip = none ∧ t.cpu.phase = .newInterval ∧ t.cpu.flow = .exited := by
  rw [h.cpu]
  exact ⟨rfl, rfl, rfl, rfl, rfl⟩

/-- The whole of it, as the statements say it. -/
theorem Loaded.exchanged (h : Loaded (exchangeJump s a p who) (newExchange a p who) t) (hwho : who ≠ .deadStart)
    (hready : PkgReady s) : Exchanged s t a p := by
  obtain ⟨hlayout, -, hb⟩ := hready
  have hheld := (h.holds hwho).sameRegisters (hlayout ▸ layoutApart_default) hb s.cpu
  obtain ⟨hiws, hparcel, hslip, hphase, hflow⟩ := h.interval
  refine ⟨h.registers, hheld, h.outside, hiws, hparcel, hslip, hphase, hflow, ?_⟩
  have htick : t.tick = s.tick + 33 := congrArg State.tick h.frame
  rw [htick]
  exact h.frame

/-- Every exchange jump but that of a dead start exchanges the registers for the package. -/
theorem exchangeJump_exchanges (a : ScmAddr) (p : Word18) (hwho : who ≠ .deadStart) (hq : Quiet s) (hn : NoParity s)
    (hready : PkgReady s) : Exchanges s (exchangeJump s a p who) a p := by
  obtain ⟨t, ht, hl⟩ := exchangeJump_loaded a p who hq hn hready.2.1
  exact ⟨rfl, t, ht, hl.exchanged hwho hready⟩

end Sequence

/-- Settles O9: the dead start begins the exchange in one step, and 33 more complete it. -/
theorem deadStartExchangesAtZero : Obligations.DeadStartExchangesAtZero := by
  intro s hq hready hn hphase
  have hstep : step s = .next (exchangeJump (ticked s s) 0 0 .deadStart) := by
    simp only [step_quiet hq, cpuMove, hphase, onNext]
    rw [endStep_idle]
    · rfl
    · exact hq.1
  obtain ⟨t, ht, hl⟩ := exchangeJump_loaded (s := ticked s s) 0 0 .deadStart hq hn hready.2.1
  obtain ⟨hiws, hparcel, hslip, hinterval, -⟩ := hl.interval
  refine ⟨t, ?_, hl.registers, hinterval, hiws, hparcel, hslip, hl.frame, hl.outside⟩
  rw [steps, hstep]
  exact ht

end Sys2Proof.Machine
end

section
/-!
The tests on the address of a word that is made current, and the error exit that they take (10_state.md R30,
60_exceptions.md R418, R431).
-/

namespace Sys2Proof.Machine

open Sys2Proof

/-! ### What the tests change -/

theorem withFlags_append (s : State) (l m : List PsdFlag) :
    withFlags s (l ++ m) = withFlags { s with cpu := { s.cpu with psd := withFlags s l } } m :=
  List.foldl_append

theorem setFlagIf_psd (s : State) (c : Prop) [Decidable c] (f : PsdFlag) :
    setFlagIf s (decide c) f = { s with cpu := { s.cpu with psd := withFlags s (if c then [f] else []) } } := by
  by_cases h : c
  · rw [if_pos h, decide_eq_true h]
    rfl
  · rw [if_neg h, decide_eq_false h]
    rfl

/-- The flags of the tests that fire for `w`. -/
def firing (s : State) (w : Word18) : List PsdFlag :=
  (if s.cpu.fls ≤ w then [.scmDirectRange] else []) ++ (if w = 0 then [.programRange] else [])
    ++ (if w = s.cpu.bpa then [.breakpoint] else [])

/-- `s` with what the tests may change taken from `v`: SCM, the PSD and the record of stores. -/
def tested (s v : State) : State :=
  { s with scm := v.scm, cpu := { s.cpu with psd := v.cpu.psd, recent := v.cpu.recent } }

/-- The tests set the flags of those that fire; a range error has its effect on earlier stores (R489). -/
structure TestsDone (s : State) (w : Word18) (v : State) : Prop where
  frame : v = tested s v
  psd : v.cpu.psd = withFlags s (firing s w)
  range : s.cpu.fls ≤ w → RangeEffect s v
  inField : w < s.cpu.fls → v.scm = s.scm ∧ v.cpu.recent = s.cpu.recent

/-- The test on the end of the field, by its two outcomes. -/
theorem fieldTest_spec (s : State) (w : Word18) : ∃ r : State,
    (if s.cpu.fls ≤ w then rangeNow s else s) = { tested s r with
        cpu := { s.cpu with psd := withFlags s (if s.cpu.fls ≤ w then [.scmDirectRange] else []), recent := r.cpu.recent } }
      ∧ (s.cpu.fls ≤ w → RangeEffect s r) ∧ (w < s.cpu.fls → r = s) := by
  by_cases h : s.cpu.fls ≤ w
  · obtain ⟨hframe, heffect⟩ := beforeRange_spec s
    refine ⟨beforeRange s, ?_, fun _ => heffect, fun hlt => absurd h (BitVec.not_le.2 hlt)⟩
    rw [if_pos h, if_pos h, rangeNow]
    exact congrArg (setFlag · .scmDirectRange) hframe
  · refine ⟨s, ?_, fun hle => absurd hle h, fun _ => rfl⟩
    rw [if_neg h, if_neg h]
    rfl

theorem addressTests_spec (s : State) (w : Word18) : TestsDone s w (addressTests s w) := by
  obtain ⟨r, hr, heffect, hnone⟩ := fieldTest_spec s w
  have htests : addressTests s w =
      { tested s r with cpu := { s.cpu with psd := withFlags s (firing s w), recent := r.cpu.recent } } := by
    have hb (x y : Word18) : (x == y) = decide (x = y) := rfl
    rw [addressTests, testRange, hr, hb, hb, setFlagIf_psd, setFlagIf_psd, firing, withFlags_append, withFlags_append]
    rfl
  rw [htests]
  refine ⟨rfl, rfl, heffect, fun hlt => ?_⟩
  rw [hnone hlt]
  exact ⟨rfl, rfl⟩

/-! ### When the error exit is taken -/

theorem addressFault_iff {s : State} {w : Word18} :
    addressFault s w = true ↔ s.cpu.fls ≤ w ∨ w = 0 ∨ w = s.cpu.bpa := by
  simp only [addressFault, Bool.or_eq_true, decide_eq_true_eq, beq_iff_eq, or_assoc]

/-- Where no test fires, none does anything. -/
theorem addressTests_of_not_fault {s : State} {w : Word18} (h : addressFault s w = false) : addressTests s w = s := by
  simp only [addressFault, Bool.or_eq_false_iff, decide_eq_false_iff_not] at h
  obtain ⟨⟨hf, h0⟩, hb⟩ := h
  simp only [addressTests, testRange, if_neg hf, h0, hb, setFlagIf, Bool.false_eq_true, if_false]

/-- The late case of R431 is of a word at (BPA) alone, reached by sequencing. -/
theorem lateBreak_of_not_only_breakpoint {s : State} {w : Word18}
    (h : s.cpu.seqInc = false ∨ w = 0 ∨ s.cpu.fls ≤ w ∨ w ≠ s.cpu.bpa) : lateBreak s w = false := by
  rcases h with hs | h0 | hf | hb
  · simp only [lateBreak, hs, Bool.false_and]
  · simp only [lateBreak, h0, BEq.rfl, Bool.or_true, Bool.not_true, Bool.and_false, Bool.false_and]
  · simp only [lateBreak, hf, decide_true, Bool.true_or, Bool.not_true, Bool.and_false, Bool.false_and]
  · exact lateBreak_false hb

/-- In the early case a test that fires, or at the start of an interval a cause that is set, takes the error exit. -/
theorem makeCurrent_errorExit {s : State} {isNew : Bool} (hlate : lateBreak s s.cpu.p = false)
    (h : addressFault s s.cpu.p = true ∨ isNew = true ∧ errorRequest s.cpu.psd = true) :
    makeCurrent s isNew = errorExit (addressTests s s.cpu.p) s.cpu.p := by
  have hexit : (addressFault s s.cpu.p || (isNew && errorRequest (addressTests s s.cpu.p).cpu.psd)) = true := by
    cases hfault : addressFault s s.cpu.p
    · obtain ⟨hnew, hcause⟩ := h.resolve_left (by rw [hfault]; exact Bool.false_ne_true)
      rw [addressTests_of_not_fault hfault, hnew, hcause]
      rfl
    · rfl
  simp only [makeCurrent, hlate, hexit, Bool.false_eq_true, if_false, if_true]

/-- So the move of a CPU at such a word is to begin the error exit. -/
theorem cpuMove_errorExit {s : State}
    (hearly : s.cpu.seqInc = false ∨ s.cpu.p = 0 ∨ s.cpu.fls ≤ s.cpu.p ∨ s.cpu.p ≠ s.cpu.bpa)
    (h : s.cpu.phase = .fetch ∧ (s.cpu.p = 0 ∨ s.cpu.fls ≤ s.cpu.p ∨ s.cpu.p = s.cpu.bpa)
      ∨ s.cpu.phase = .newInterval
        ∧ (s.cpu.p = 0 ∨ s.cpu.fls ≤ s.cpu.p ∨ s.cpu.p = s.cpu.bpa ∨ errorRequest s.cpu.psd = true)) :
    cpuMove s = runNewWord (errorExit (addressTests s s.cpu.p) s.cpu.p) := by
  have hlate := lateBreak_of_not_only_breakpoint hearly
  rcases h with ⟨hphase, hfires⟩ | ⟨hphase, hfires⟩
  · simp only [cpuMove, hphase]
    rw [makeCurrent_errorExit hlate (.inl (addressFault_iff.2 (by tauto)))]
  · have hstop : addressFault s s.cpu.p = true ∨ true = true ∧ errorRequest s.cpu.psd = true := by
      rw [addressFault_iff]
      tauto
    simp only [cpuMove, hphase]
    rw [makeCurrent_errorExit hlate hstop]

/-- A step whose move is to begin the error exit begins the exchange to (EEA) that stores P. -/
theorem step_errorExit {s v : State} (hq : Quiet s) (hn : NoParity s) (hready : PkgReady s) (hv : v = tested s v)
    (hmove : cpuMove s = runNewWord (errorExit v s.cpu.p)) :
    ∃ t, step s = .next t ∧ Exchanges (ticked s (tested s v)) t s.cpu.eea s.cpu.p := by
  refine ⟨errorExit (ticked s (tested s v)) s.cpu.p, ?_,
    exchangeJump_exchanges s.cpu.eea s.cpu.p (by decide) hq hn hready⟩
  have hrun : runNewWord (errorExit (tested s v) s.cpu.p) = .next (errorExit (tested s v) s.cpu.p) := rfl
  rw [hv] at hmove
  rw [step_quiet hq, hmove, hrun, onNext, endStep_idle]
  · rfl
  · exact hq.1

/-! ### The late breakpoint -/

/-- The word `v` made current with the late breakpoint on record, which is taken at its end. -/
def lateWord (s : State) (v : Word60) (l : List (Word18 × Word60)) : State :=
  { s with cpu := { s.cpu with
      psd := withFlags s [.breakpoint], slip := some 0, ciw := v, iws := l, parcel := 0
      phase := .inWord, issued := 0, inc30 := 0, branched := false, seqInc := false } }

theorem makeCurrent_late {s : State} (isNew : Bool) (hlate : lateBreak s s.cpu.p = true) (h : s.scmBad = []) :
    ∃ l, makeCurrent s isNew = lateWord s (fetchValue s s.cpu.p) l := by
  obtain ⟨l, hl⟩ := loadWord_spec s.cpu.p h
  refine ⟨l, ?_⟩
  simp only [makeCurrent, hlate, hl, if_true]
  rfl

/-- At (BPA) alone, the test sets Breakpoint and nothing else happens. -/
theorem addressTests_breakpoint {s : State} (hb : s.cpu.p = s.cpu.bpa) (h0 : s.cpu.p ≠ 0) (hf : s.cpu.p < s.cpu.fls) :
    addressTests s s.cpu.p = setFlag s .breakpoint := by
  have hb' : (s.cpu.p == s.cpu.bpa) = true := beq_iff_eq.2 hb
  simp only [addressTests, testRange, if_neg (BitVec.not_le.2 hf), beq_false_of_ne h0, hb', setFlagIf, Bool.false_eq_true,
    if_false, if_true]

/-- Settles O45: the tests stop the word, but for the late breakpoint, which runs it. -/
theorem addressTestsTakeTheErrorExit : Obligations.AddressTestsTakeTheErrorExit := by
  refine ⟨fun s hq hn hready hearly h => ?_, fun s hq hn hready hphase _ hb h0 hf => ?_⟩
  · have htests := addressTests_spec s s.cpu.p
    obtain ⟨t, hstep, hexchanges⟩ := step_errorExit hq hn hready htests.frame (cpuMove_errorExit hearly h)
    exact ⟨t, _, hstep, hexchanges, rfl, htests.psd, htests.range, htests.inField⟩
  · cases hlate : lateBreak s s.cpu.p
    · left
      have hmove : cpuMove s = runNewWord (errorExit (setFlag s .breakpoint) s.cpu.p) := by
        simp only [cpuMove, hphase]
        rw [makeCurrent_errorExit hlate (.inl (addressFault_iff.2 (.inr (.inr hb)))), addressTests_breakpoint hb h0 hf]
      obtain ⟨t, hstep, hexchanges⟩ := step_errorExit hq hn hready rfl hmove
      exact ⟨t, _, hstep, hexchanges, rfl⟩
    · right
      obtain ⟨l, hl⟩ := makeCurrent_late false hlate hn.1
      refine ⟨lateWord s (fetchValue s s.cpu.p) l, ?_, rfl,
        fun hiws => fetchValue_empty hiws hn.1 (scmExists_full hready.2.1 _)⟩
      have hmove : cpuMove s = runParcel (lateWord s (fetchValue s s.cpu.p) l) := by
        simp only [cpuMove, hphase, hl, runNewWord]
        rfl
      rw [step_quiet hq, hmove]

end Sys2Proof.Machine
end

section
/-!
The order of the references to SCM (20_memory.md R84, R93, R114): what SCM receives at once and in which order, which request
it serves, what the CPU asks for and when it waits.
-/

namespace Sys2Proof.Machine

open Sys2Proof

/-! ### Which requests are out -/

theorem wordReqOut_iff (s : State) (c : Unit16) (input : Bool) : wordReqOut s c input = true ↔
    c ≠ 0 ∧ s.cfg.muxPresent[c] = true ∧ (if input then s.mux[c].inp.wordReq else s.mux[c].out.wordReq) = true := by
  simp only [wordReqOut, channelPresent, Bool.and_eq_true, bne_iff_ne, and_assoc]

/-- A channel alone withdraws a request of its own. -/
theorem requestOut_of_not_mux (s : State) {r : ScmRequest} (h : ∀ c input, r ≠ .mux c input) : requestOut s r = true := by
  cases r with
  | mux c input => exact absurd rfl (h c input)
  | _ => rfl

theorem servedRequest_iff {s : State} {r : ScmRequest} : servedRequest s = some r ↔
    requestOut s r = true ∧ ∃ l m, s.scmQueue = l ++ r :: m ∧ ∀ q ∈ l, requestOut s q = false := by
  simp only [servedRequest, List.find?_eq_some_iff_append, Bool.not_eq_eq_eq_not, Bool.not_true]

theorem muxStore_of_not_served {s : State} {c : Unit16} (h : servedRequest s ≠ some (.mux c true)) : muxStore s c = s := by
  simp only [muxStore, if_neg h]

theorem muxFetch_of_not_served {s : State} {c : Unit16} (h : servedRequest s ≠ some (.mux c false)) : muxFetch s c = s := by
  simp only [muxFetch, if_neg h]

theorem mcuStore_of_not_served {s : State} (h : ∀ a v, servedRequest s ≠ some (.mcu a v)) : mcuStore s = s := by
  unfold mcuStore
  split
  · rename_i a v hserved
    exact absurd hserved (h a v)
  · rfl

/-- SCM serving the MCU's request: the store, and the request gone. -/
theorem mcuStore_of_served {s : State} {a : ScmAddr} {v : Word60} (h : servedRequest s = some (.mcu a v)) :
    mcuStore s = scmStore (scmServed s (.mcu a v)) a v := by
  simp only [mcuStore, h]

/-! ### The requests that are new to SCM -/

theorem mem_sidesByPriority {r : ScmRequest} : r ∈ sidesByPriority ↔ ∃ c input, r = .mux c input := by
  simp only [sidesByPriority, List.mem_flatMap, List.mem_finRange, true_and, List.mem_cons, List.not_mem_nil, or_false,
    Bool.exists_bool]
  exact exists_congr fun _ => or_comm

theorem mem_muxNew_iff {s : State} {c : Unit16} {input : Bool} : .mux c input ∈ muxNew s ↔
    .mux c input ∉ s.scmQueue ∧ wordReqOut s c input = true := by
  have hside : ScmRequest.mux c input ∈ sidesByPriority := mem_sidesByPriority.2 ⟨c, input, rfl⟩
  simp only [muxNew, List.mem_filter, hside, true_and, Bool.and_eq_true, List.contains_eq_mem, Bool.not_eq_eq_eq_not,
    Bool.not_true, decide_eq_false_iff_not, requestOut, and_comm]

/-- A new request of a channel is a Word Request. -/
theorem mux_of_mem_muxNew {s : State} {r : ScmRequest} (h : r ∈ muxNew s) : ∃ c input, r = .mux c input :=
  mem_sidesByPriority.1 (List.mem_filter.1 h).1

theorem mcuNew_eq_some_iff {s : State} {r : ScmRequest} : mcuNew s = some r ↔
    ∃ a v, r = .mcu a v ∧ s.mcuOut.head? = some (a, v) ∧ ∀ b w, .mcu b w ∉ s.scmQueue := by
  have hqueue : s.scmQueue.any (fun q => q.rank == 4 && !q.ofMux) = false ↔ ∀ b w, .mcu b w ∉ s.scmQueue := by
    rw [List.any_eq_false]
    constructor
    · intro h b w hm
      exact h _ hm rfl
    · intro h q hq
      cases q with
      | mcu b w => exact absurd hq (h b w)
      | _ => exact Bool.false_ne_true
  unfold mcuNew
  rw [← hqueue]
  cases s.scmQueue.any (fun q => q.rank == 4 && !q.ofMux) <;> cases s.mcuOut.head? <;> simp [Prod.ext_iff, eq_comm]

theorem cpuNew_eq_some_iff {s : State} {r : ScmRequest} : cpuNew s = some r ↔
    cpuHeld s = false ∧ cpuRequest s = some r ∧ ∀ q ∈ s.scmQueue, q.ofCpu = false := by
  have hqueue : cpuQueued s = false ↔ ∀ q ∈ s.scmQueue, q.ofCpu = false := by
    simp only [cpuQueued, List.any_eq_false, Bool.not_eq_true]
  rw [← hqueue]
  unfold cpuNew
  cases cpuHeld s <;> cases cpuQueued s <;> simp

/-! ### The order in which SCM receives them -/

/-- Within the multiplexer the lowest channel comes first, and input before output. -/
theorem sidesByPriority_ordered : sidesByPriority.Pairwise MayPrecede := by
  rw [sidesByPriority, List.pairwise_flatMap]
  refine ⟨fun c _ => ?_, (List.pairwise_lt_finRange 16).imp fun {c d} hcd p hp q hq => ?_⟩
  · exact List.pairwise_pair.2 (.inr ⟨rfl, rfl, rfl⟩)
  · simp only [List.mem_cons, List.not_mem_nil, or_false] at hp hq
    rcases hp with rfl | rfl <;> rcases hq with rfl | rfl <;> exact .inl hcd

theorem muxNew_ordered (s : State) : (muxNew s).Pairwise MayPrecede := sidesByPriority_ordered.filter _

/-- Where one of the two is not a channel's, the classes decide. -/
theorem mayPrecede_of_rank {p q : ScmRequest} (hmux : p.ofMux = false ∨ q.ofMux = false) (hrank : p.rank ≤ q.rank) :
    MayPrecede p q := by
  unfold MayPrecede
  split
  · rcases hmux with h | h <;> cases h
  · exact hrank

/-- The multiplexer's requests are of one class. -/
theorem rank_of_mem_multiplexerNew {s : State} {mcu : Option Nat} {r : ScmRequest} (h : r ∈ multiplexerNew s mcu) :
    r.rank = 4 := by
  rcases (mem_multiplexerNew s mcu r).1 h with hm | ⟨_, hm⟩
  · obtain ⟨c, input, rfl⟩ := mux_of_mem_muxNew hm
    rfl
  · obtain ⟨a, v, rfl, _⟩ := mcuNew_eq_some_iff.1 hm
    rfl

/-- The MCU's request may stand anywhere among those of the channels. -/
theorem multiplexerNew_ordered (s : State) (mcu : Option Nat) : (multiplexerNew s mcu).Pairwise MayPrecede := by
  unfold multiplexerNew
  split
  case h_2 => exact muxNew_ordered s
  rename_i n r hr
  obtain ⟨a, v, rfl, _⟩ := mcuNew_eq_some_iff.1 hr
  have hordered := muxNew_ordered s
  rw [← List.take_append_drop n (muxNew s), List.pairwise_append] at hordered
  obtain ⟨htake, hdrop, hcross⟩ := hordered
  have hrank {q : ScmRequest} (hq : q ∈ muxNew s) : q.rank = 4 := by
    obtain ⟨c, input, rfl⟩ := mux_of_mem_muxNew hq
    rfl
  refine List.pairwise_append.2 ⟨htake, List.pairwise_cons.2 ⟨fun q hq => ?_, hdrop⟩, fun p hp q hq => ?_⟩
  · exact mayPrecede_of_rank (.inl rfl) (hrank (List.mem_of_mem_drop hq)).ge
  · rcases List.mem_cons.1 hq with rfl | hq
    · exact mayPrecede_of_rank (.inr rfl) (hrank (List.mem_of_mem_take hp)).le
    · exact hcross p hp q hq

/-- The CPU's request before or after those of the multiplexer, by its class. -/
theorem received_ordered {new group : List ScmRequest} (hnew : new.Pairwise MayPrecede) (hgroup : group.Pairwise MayPrecede)
    (hrank : ∀ r ∈ group, r.rank = 4) :
    (new.filter (fun r => decide (r.rank < 4)) ++ group ++ new.filter (fun r => decide (4 < r.rank))).Pairwise MayPrecede := by
  have notMux {r : ScmRequest} (h : r.rank ≠ 4) : r.ofMux = false := by
    cases r with
    | mux c input => exact absurd rfl h
    | _ => rfl
  refine List.pairwise_append.2 ⟨List.pairwise_append.2 ⟨hnew.filter _, hgroup, fun p hp q hq => ?_⟩, hnew.filter _,
    fun p hp q hq => ?_⟩
  · have hp4 : p.rank < 4 := of_decide_eq_true (List.mem_filter.1 hp).2
    have hq4 := hrank q hq
    exact mayPrecede_of_rank (.inl (notMux (by omega))) (by omega)
  · have hq4 : 4 < q.rank := of_decide_eq_true (List.mem_filter.1 hq).2
    have hp4 : p.rank ≤ 4 := by
      rcases List.mem_append.1 hp with hp | hp
      · exact (of_decide_eq_true (List.mem_filter.1 hp).2 : p.rank < 4).le
      · exact (hrank p hp).le
    exact mayPrecede_of_rank (.inr (notMux (by omega))) (by omega)

/-- What SCM receives at once it puts in the order of priority. -/
theorem scmReceive_ordered {s : State} {cpu : Bool} {mcu : Option Nat} {l : List ScmRequest} {m : List (ScmAddr × Word60)}
    (h : scmReceive s cpu mcu = { s with scmQueue := s.scmQueue ++ l, mcuOut := m }) : l.Pairwise MayPrecede := by
  rw [← List.append_cancel_left (congrArg State.scmQueue h)]
  refine received_ordered ?_ (multiplexerNew_ordered s mcu) fun r => rank_of_mem_multiplexerNew
  split
  · cases cpuNew s with
    | none => exact .nil
    | some r => exact List.pairwise_singleton _ r
  · exact .nil

/-! ### The CPU's turn -/

/-- The CPU waits where a request of another agent that SCM received before its own is out. -/
theorem cpuMustWait_iff {s : State} : cpuMustWait s = true ↔
    (∃ l q m, s.scmQueue = l ++ q :: m ∧ (∀ p ∈ l, p.ofCpu = false) ∧ q.ofCpu = false ∧ requestOut s q = true)
      ∧ (cpuRequest s).isSome = true := by
  rw [cpuMustWait, Bool.and_eq_true, List.any_eq_true]
  refine and_congr_left fun _ => ⟨?_, ?_⟩
  · rintro ⟨q, hq, hout⟩
    obtain ⟨l, m, hlm⟩ := List.append_of_mem hq
    have hbefore : ∀ p ∈ l ++ q :: m, p.ofCpu = false := by
      rw [← hlm]
      intro p hp
      simpa using List.mem_takeWhile_imp hp
    refine ⟨l, q, m ++ s.scmQueue.dropWhile (fun r => !r.ofCpu), ?_, fun p hp => ?_, hbefore q (by simp), hout⟩
    · rw [← List.cons_append, ← List.append_assoc, ← hlm, List.takeWhile_append_dropWhile]
    · exact hbefore p (List.mem_append_left _ hp)
  · rintro ⟨l, q, m, hqueue, hl, hq, hout⟩
    refine ⟨q, ?_, hout⟩
    rw [hqueue, List.takeWhile_append_of_pos (by simpa using hl), List.takeWhile_cons_of_pos (by simpa using hq)]
    simp

/-- Its turn is then that SCM receives its request, unless it has. -/
theorem cpuTurn_waits {s : State} {r : ScmRequest} (hheld : cpuHeld s = false) (hwait : cpuMustWait s = true)
    (hr : cpuRequest s = some r) :
    cpuTurn s = .next { s with scmQueue := if s.scmQueue.any ScmRequest.ofCpu then s.scmQueue else s.scmQueue ++ [r] } := by
  have hqueue : s.scmQueue ++ (cpuNew s).toList = if s.scmQueue.any ScmRequest.ofCpu then s.scmQueue else s.scmQueue ++ [r] := by
    rw [cpuNew, hheld, cpuQueued, hr, Bool.false_or]
    split
    · exact List.append_nil _
    · rfl
  simp only [cpuTurn, hheld, hwait, cpuReceive, hqueue, Bool.false_eq_true, if_false, if_true]

theorem cpuTurn_moves {s : State} (hheld : cpuHeld s = false) (hwait : cpuMustWait s = false) :
    cpuTurn s = cpuMove (cpuServed s) := by
  simp only [cpuTurn, hheld, hwait, Bool.false_eq_true, if_false]

/-! ### What the CPU asks for -/

theorem instrRequest_of_setsA {s : State} {ins : Instr} {i : Reg} {r : Word18} (h : SetsA s ins i r) :
    instrRequest ins = if i = 0 then none else some .increment := by
  cases h <;> rfl

/-- No instruction but 50 to 57 and 010 asks for SCM. -/
theorem instrRequest_eq_none {s : State} {ins : Instr} (hset : ∀ i r, ¬ SetsA s ins i r) (hrj : ∀ K, ins ≠ .rj010 K) :
    instrRequest ins = none := by
  cases ins with
  | sa50 i j K => exact absurd (.sa50 i j K) (hset _ _)
  | sa51 i j K => exact absurd (.sa51 i j K) (hset _ _)
  | sa52 i j K => exact absurd (.sa52 i j K) (hset _ _)
  | sa53 i j k => exact absurd (.sa53 i j k) (hset _ _)
  | sa54 i j k => exact absurd (.sa54 i j k) (hset _ _)
  | sa55 i j k => exact absurd (.sa55 i j k) (hset _ _)
  | sa56 i j k => exact absurd (.sa56 i j k) (hset _ _)
  | sa57 i j k => exact absurd (.sa57 i j k) (hset _ _)
  | rj010 K => exact absurd rfl (hrj K)
  | _ => rfl

theorem iwsFind_isEmpty_iff {q : List (Word18 × Word60)} {v : Word18} :
    (iwsFind q v).isEmpty = true ↔ ∀ w, (v, w) ∉ q := by
  rw [iwsFind, List.isEmpty_iff, List.map_eq_nil_iff, List.filter_eq_nil_iff]
  constructor
  · intro h w hm
    exact h _ hm (beq_self_eq_true v)
  · rintro h ⟨a, w⟩ hm ha
    exact h w (beq_iff_eq.1 ha ▸ hm)

theorem fetchReads_iff {s : State} {w : Word18} :
    fetchReads s w = true ↔ ∃ v ∈ [w, w + 1, w + 2], ∀ u, (v, u) ∉ s.cpu.iws := by
  simp only [fetchReads, List.any_eq_true, iwsFind_isEmpty_iff]

section Request

variable {s : State}

theorem cpuRequest_exchanging {x : Exchange} (h : s.cpu.phase = .exchanging x) :
    cpuRequest s = if (List.finRange 16).any (fun w => !x.put[w]) then some .exchange else none := by
  simp only [cpuRequest, h]

theorem cpuRequest_copying {c : CopyRun} (h : s.cpu.phase = .copying c) :
    cpuRequest s = if c.left = 0 then none else some .blockCopy := by
  simp only [cpuRequest, h]

theorem cpuRequest_inWord (h : s.cpu.phase = .inWord) : cpuRequest s = instrRequest (currentInstr s) := by
  simp only [cpuRequest, h]

theorem cpuRequest_newWord {isNew : Bool} (h : s.cpu.phase = if isNew then .newInterval else .fetch) :
    cpuRequest s = wordRequest s isNew := by
  cases isNew <;> simp only [Bool.false_eq_true, if_false, if_true] at h <;> simp only [cpuRequest, h]

/-- Inside an exchange sequence it asks until every word has been written. -/
theorem cpuRequest_exchanging_cases {x : Exchange} (h : s.cpu.phase = .exchanging x) :
    ((∃ w : Fin 16, x.put[w] = false) → cpuRequest s = some .exchange)
      ∧ ((∀ w : Fin 16, x.put[w] = true) → cpuRequest s = none) := by
  rw [cpuRequest_exchanging h]
  refine ⟨fun ⟨w, hw⟩ => if_pos ?_, fun hall => if_neg ?_⟩
  · exact List.any_eq_true.2 ⟨w, List.mem_finRange w, by rw [hw]; rfl⟩
  · simp only [List.any_eq_true, not_exists, not_and, hall, Bool.not_true, Bool.false_eq_true, not_false_eq_true, implies_true]

/-- Inside a word its instruction asks. -/
theorem cpuRequest_inWord_cases (h : s.cpu.phase = .inWord) :
    (∀ i r, SetsA s (currentInstr s) i r → cpuRequest s = if i = 0 then none else some .increment)
      ∧ (∀ K, currentInstr s = .rj010 K → cpuRequest s = some .returnJump)
      ∧ ((∀ i r, ¬ SetsA s (currentInstr s) i r) → (∀ K, currentInstr s ≠ .rj010 K) → cpuRequest s = none) := by
  rw [cpuRequest_inWord h]
  exact ⟨fun _ _ => instrRequest_of_setsA, fun K hK => by rw [hK]; rfl, instrRequest_eq_none⟩

/-- At a new word the fetch asks, or, where the stack holds the words, the first instruction. -/
theorem cpuRequest_newWord_cases {isNew : Bool} (h : s.cpu.phase = if isNew then .newInterval else .fetch) :
    ((makeCurrent s isNew).cpu.phase ≠ .inWord → cpuRequest s = none)
      ∧ ((makeCurrent s isNew).cpu.phase = .inWord →
        ((∃ v ∈ [s.cpu.p, s.cpu.p + 1, s.cpu.p + 2], ∀ w, (v, w) ∉ s.cpu.iws) → cpuRequest s = some .fetch)
        ∧ ((∀ v ∈ [s.cpu.p, s.cpu.p + 1, s.cpu.p + 2], ∃ w, (v, w) ∈ s.cpu.iws) →
            cpuRequest s = cpuRequest (makeCurrent s isNew))) := by
  rw [cpuRequest_newWord h, wordRequest]
  refine ⟨fun hp => if_neg hp, fun hp => ⟨fun hmiss => ?_, fun hall => ?_⟩⟩
  · rw [if_pos hp, if_pos (fetchReads_iff.2 hmiss)]
  · have hhit : ¬ fetchReads s s.cpu.p = true := by
      rw [fetchReads_iff]
      rintro ⟨v, hv, hnone⟩
      obtain ⟨w, hw⟩ := hall v hv
      exact hnone w hw
    rw [if_pos hp, if_neg hhit, cpuRequest_inWord hp]

end Request

/-! ### What SCM receives at once -/

/-- What SCM receives at once: each new request once, by priority. -/
theorem scmReceive_received (s : State) (cpu : Bool) (mcu : Option Nat) : ∃ l m,
    agentStep s (.scmReceive cpu mcu) = { s with scmQueue := s.scmQueue ++ l, mcuOut := m }
      ∧ l.Pairwise MayPrecede
      ∧ (∀ c input, .mux c input ∈ l ↔ .mux c input ∉ s.scmQueue ∧ wordReqOut s c input = true)
      ∧ (∀ a v, .mcu a v ∈ l ↔ mcu.isSome = true ∧ s.mcuOut.head? = some (a, v) ∧ ∀ b w, .mcu b w ∉ s.scmQueue)
      ∧ ((∃ a v, .mcu a v ∈ l) → m = s.mcuOut.tail) ∧ ((∀ a v, .mcu a v ∉ l) → m = s.mcuOut)
      ∧ ∀ r : ScmRequest, r.ofCpu = true →
        (r ∈ l ↔ cpu = true ∧ cpuHeld s = false ∧ cpuRequest s = some r ∧ ∀ q ∈ s.scmQueue, q.ofCpu = false) := by
  obtain ⟨l, m, hl, hmem, hm⟩ := scmReceive_spec s cpu mcu
  have notCpu {r : ScmRequest} (h : r.ofCpu = false) : cpuNew s ≠ some r := fun hr => by
    rw [cpuRequest_ofCpu (cpuNew_eq_some_iff.1 hr).2.1] at h
    cases h
  have notMux {r : ScmRequest} (h : ∀ c input, r ≠ .mux c input) : r ∉ muxNew s := fun hr => by
    obtain ⟨c, input, rfl⟩ := mux_of_mem_muxNew hr
    exact h c input rfl
  have notMcu {r : ScmRequest} (h : ∀ a v, r ≠ .mcu a v) : mcuNew s ≠ some r := fun hr => by
    obtain ⟨a, v, rfl, _⟩ := mcuNew_eq_some_iff.1 hr
    exact h a v rfl
  have hmcu (a : ScmAddr) (v : Word60) : .mcu a v ∈ l ↔ mcu.isSome = true ∧ mcuNew s = some (.mcu a v) := by
    simp only [hmem, notMux (r := .mcu a v) nofun, notCpu (r := .mcu a v) rfl, and_false, false_or]
  refine ⟨l, m, hl, scmReceive_ordered hl, fun c input => ?_, fun a v => ?_, ?_, fun hnone => ?_, fun r hr => ?_⟩
  · simp only [hmem, notCpu (r := .mux c input) rfl, notMcu (r := .mux c input) nofun, and_false, or_false, mem_muxNew_iff]
  · simp only [hmcu, mcuNew_eq_some_iff, ScmRequest.mcu.injEq]
    constructor
    · rintro ⟨h, _, _, ⟨rfl, rfl⟩, hrest⟩
      exact ⟨h, hrest⟩
    · rintro ⟨h, hrest⟩
      exact ⟨h, a, v, ⟨rfl, rfl⟩, hrest⟩
  · rintro ⟨a, v, hav⟩
    obtain ⟨hsome, hnew⟩ := (hmcu a v).1 hav
    rw [hm, hsome, hnew]
    rfl
  · rw [hm, if_neg]
    rw [Bool.and_eq_true, not_and]
    intro hsome hnew
    obtain ⟨r, hr⟩ := Option.isSome_iff_exists.1 hnew
    obtain ⟨a, v, rfl, _⟩ := mcuNew_eq_some_iff.1 hr
    exact hnone a v ((hmcu a v).2 ⟨hsome, hr⟩)
  · have h1 : r ∉ muxNew s := notMux fun c input e => by rw [e] at hr; cases hr
    have h2 : mcuNew s ≠ some r := notMcu fun a v e => by rw [e] at hr; cases hr
    simp only [hmem, h1, h2, and_false, or_false, false_or, cpuNew_eq_some_iff]

/-- Settles O39: what SCM receives, what it serves, when the CPU waits and what it asks for, each by its lemmas above. -/
theorem scmServesRequestsInOrder : Obligations.ScmServesRequestsInOrder := by
  refine ⟨fun s cpu mcu => ?_, fun s => ?_, fun s hheld => ⟨?_, ?_⟩, fun s => ?_⟩
  · simpa only [wordReqOut_iff] using scmReceive_received s cpu mcu
  · exact ⟨fun _ _ => rfl, wordReqOut_iff s, fun _ => requestOut_of_not_mux s, fun _ => servedRequest_iff,
      fun _ => ⟨muxStore_of_not_served, muxFetch_of_not_served⟩, mcuStore_of_not_served⟩
  · intro r l m q hqueue hl hq hout hr
    exact cpuTurn_waits hheld (cpuMustWait_iff.2 ⟨⟨l, q, m, hqueue, hl, hq, hout⟩, by rw [hr]; rfl⟩) hr
  · intro hfree
    refine cpuTurn_moves hheld (Bool.eq_false_iff.2 fun hwait => ?_)
    obtain ⟨⟨l, q, m, hqueue, hl, hq, hout⟩, hsome⟩ := cpuMustWait_iff.1 hwait
    rcases hfree with hnone | hnone
    · rw [hnone l m q hqueue hl hq] at hout
      cases hout
    · rw [hnone] at hsome
      cases hsome
  · exact ⟨fun x w hp hw => (cpuRequest_exchanging_cases hp).1 ⟨w, hw⟩, fun x hp => (cpuRequest_exchanging_cases hp).2,
      fun c hp => cpuRequest_copying hp, fun hp => by simp only [cpuRequest, hp], cpuRequest_inWord_cases,
      fun isNew hp => cpuRequest_newWord_cases hp⟩

end Sys2Proof.Machine
end

section
/-!
The channels of the multiplexer (20_memory.md R72, R103, R107 to R112): words assembled from five and taken apart again, the
storage and the delivery of a word, and the events at the middle and the end of a buffer.
-/

namespace Sys2Proof.Machine

open Sys2Proof

/-! ### Positions of a word (R72) -/

/-- A 12-bit word put at a position is a field put there. -/
theorem assemble_eq_putField (v : Word60) (n : Nat) (w : Word12) : assemble v n w = putField v (48 - 12 * n) 12 w.toNat := by
  have hmask : BitVec.ofNat 60 (2 ^ 12 - 1) = 0o7777 := rfl
  have hword : BitVec.ofNat 60 (w.toNat % 2 ^ 12) = w.setWidth 60 := by
    rw [Nat.mod_eq_of_lt w.isLt, BitVec.ofNat_toNat]
  rw [assemble, putField, hmask, hword]

theorem getLsbD_assemble (v : Word60) (n : Nat) (w : Word12) {k : Nat} (hk : k < 60) :
    (assemble v n w).getLsbD k
      = if 48 - 12 * n ≤ k ∧ k < 48 - 12 * n + 12 then w.getLsbD (k - (48 - 12 * n)) else v.getLsbD k := by
  rw [assemble_eq_putField, getLsbD_putField _ _ _ _ hk]
  rfl

/-- Words put at all five positions leave nothing of the word before. -/
theorem assemble_five (v : Word60) (w0 w1 w2 w3 w4 : Word12) :
    assemble (assemble (assemble (assemble (assemble v 0 w0) 1 w1) 2 w2) 3 w3) 4 w4 = w0 ++ w1 ++ w2 ++ w3 ++ w4 := by
  refine BitVec.eq_of_getLsbD_eq fun k hk => ?_
  simp only [getLsbD_assemble _ _ _ hk, BitVec.getLsbD_append, Nat.sub_sub]
  simp only [Nat.reduceMul, Nat.reduceSub, Nat.reduceAdd, Nat.sub_zero]
  have hposition : k < 12 ∨ 12 ≤ k ∧ k < 24 ∨ 24 ≤ k ∧ k < 36 ∨ 36 ≤ k ∧ k < 48 ∨ 48 ≤ k := by omega
  rcases hposition with h | h | h | h | h <;> simp (disch := omega) only [if_pos, if_neg]

theorem disassemble_eq (v : Word60) (n : Nat) : disassemble v n = v.extractLsb' (48 - 12 * n) 12 := by
  rw [disassemble]
  ext k hk
  simp only [BitVec.getElem_setWidth, BitVec.getElem_extractLsb', BitVec.getLsbD_ushiftRight]

/-- Zeros below the positions that are filled. -/
theorem getLsbD_zeroFill (v : Word60) (n : Nat) {k : Nat} (hk : k < 60) :
    (zeroFill v n).getLsbD k = (decide (60 ≤ k + 12 * n) && v.getLsbD k) := by
  have hfilled : (!decide (12 * n + k < 60)) = decide (60 ≤ k + 12 * n) := by
    rw [← decide_not, decide_eq_decide]
    omega
  simp only [zeroFill, highMask, BitVec.getLsbD_and, BitVec.getLsbD_not, BitVec.getLsbD_ushiftRight, BitVec.getLsbD_allOnes, hk,
    decide_true, Bool.true_and, hfilled, Bool.and_comm]

/-! ### Events (R107) -/

/-- An event on an input side: a request or a held event, and nothing else. -/
theorem MuxIn.event_spec (m : MuxIn) : m.event = { m with ireq := m.event.ireq, held := m.event.held }
    ∧ OneEvent m.ireq m.lockout m.held m.event.ireq m.event.held := by
  unfold MuxIn.event
  split
  · rename_i h
    rw [Bool.or_eq_true] at h
    exact ⟨rfl, fun hi hl => absurd h (by rw [hi, hl]; decide), fun _ => ⟨rfl, rfl⟩⟩
  · rename_i h
    rw [Bool.or_eq_true] at h
    exact ⟨rfl, fun _ _ => ⟨rfl, rfl⟩, fun hor => absurd hor h⟩

theorem MuxOut.event_spec (m : MuxOut) : m.event = { m with ireq := m.event.ireq, held := m.event.held }
    ∧ OneEvent m.ireq m.lockout m.held m.event.ireq m.event.held := by
  unfold MuxOut.event
  split
  · rename_i h
    rw [Bool.or_eq_true] at h
    exact ⟨rfl, fun hi hl => absurd h (by rw [hi, hl]; decide), fun _ => ⟨rfl, rfl⟩⟩
  · rename_i h
    rw [Bool.or_eq_true] at h
    exact ⟨rfl, fun _ _ => ⟨rfl, rfl⟩, fun hor => absurd hor h⟩

/-! ### The buffer address (R102, R103) -/

section Advance

variable {b : Buffer} {a : BitVec 8}

theorem toNat_bufNext (hmax : b.length ≤ 256) (ha : a.toNat < b.length) :
    (bufNext b a).toNat = if a.toNat + 1 = b.length then 0 else a.toNat + 1 := by
  have hlt : (a.toNat + 1) % b.length < 2 ^ 8 := (Nat.mod_lt _ (by omega)).trans_le hmax
  rw [bufNext, BitVec.toNat_ofNat, Nat.mod_eq_of_lt hlt]
  split
  · rename_i he
    rw [he, Nat.mod_self]
  · exact Nat.mod_eq_of_lt (by omega)

/-- The advance crosses a boundary at the middle and at the end. -/
theorem crossed_bufNext_iff (hmin : 2 ≤ b.length) (hmax : b.length ≤ 256) (ha : a.toNat < b.length) :
    crossed b (bufNext b a) = true ↔ a.toNat + 1 = b.length ∨ a.toNat + 1 = b.length / 2 := by
  rw [crossed, Bool.or_eq_true, decide_eq_true_eq, decide_eq_true_eq, toNat_bufNext hmax ha]
  split <;> omega

end Advance

/-- An input side after its word was accepted: whether an event comes, and what else changes. -/
theorem MuxIn.stored_spec (m : MuxIn) (b : Buffer) :
    m.stored b = { m with
        bufAddr := bufNext b m.bufAddr, wordReq := false, endRec := false, asmCnt := 0
        ireq := (m.stored b).ireq, held := (m.stored b).held }
      ∧ (m.endRec = true ∨ crossed b (bufNext b m.bufAddr) = true →
          OneEvent m.ireq m.lockout m.held (m.stored b).ireq (m.stored b).held)
      ∧ (m.endRec = false → crossed b (bufNext b m.bufAddr) = false →
          (m.stored b).ireq = m.ireq ∧ (m.stored b).held = m.held) := by
  unfold MuxIn.stored
  dsimp only
  split
  · rename_i h
    obtain ⟨heq, hevent⟩ := MuxIn.event_spec
      { m with bufAddr := bufNext b m.bufAddr, wordReq := false, endRec := false, asmCnt := 0 }
    refine ⟨heq, fun _ => hevent, fun hrec hcross => ?_⟩
    rw [hrec, hcross] at h
    cases h
  · rename_i h
    rw [Bool.or_eq_true] at h
    exact ⟨rfl, fun hor => absurd hor h, fun _ _ => ⟨rfl, rfl⟩⟩

/-- An output side whose address advances. -/
theorem MuxOut.advance_spec (m : MuxOut) (b : Buffer) :
    m.advance b = { m with
        bufAddr := bufNext b m.bufAddr, ireq := (m.advance b).ireq, held := (m.advance b).held }
      ∧ (crossed b (bufNext b m.bufAddr) = true →
          OneEvent m.ireq m.lockout m.held (m.advance b).ireq (m.advance b).held)
      ∧ (crossed b (bufNext b m.bufAddr) = false → (m.advance b).ireq = m.ireq ∧ (m.advance b).held = m.held) := by
  unfold MuxOut.advance
  dsimp only
  split
  · rename_i h
    obtain ⟨heq, hevent⟩ := MuxOut.event_spec { m with bufAddr := bufNext b m.bufAddr }
    refine ⟨heq, fun _ => hevent, fun hcross => ?_⟩
    rw [hcross] at h
    cases h
  · rename_i h
    exact ⟨rfl, fun hcross => absurd hcross h, fun _ => ⟨rfl, rfl⟩⟩

/-! ### A held side transfers nothing (R107 (3)) -/

theorem muxSample_held {s : State} {c : Unit16} (h : s.mux[c].inp.held = true) : muxSample s c = s := by
  simp only [muxSample, MuxIn.canSample, h, Bool.not_true, Bool.and_false, Bool.false_eq_true, if_false]

theorem muxRecord_held {s : State} {c : Unit16} (h : s.mux[c].inp.held = true) : muxRecord s c = s := by
  simp only [muxRecord, MuxIn.canRecord, h, Bool.not_true, Bool.and_false, Bool.false_eq_true, if_false]

theorem muxSend_held {s : State} {c : Unit16} (h : s.mux[c].out.held = true) : muxSend s c = s := by
  simp only [muxSend, h, Bool.true_or, if_true]

theorem muxAhead_held {s : State} {c : Unit16} (h : s.mux[c].out.held = true) : muxAhead s c = s := by
  simp only [muxAhead, h, Bool.not_true, Bool.and_false, Bool.false_and, Bool.false_eq_true, if_false]

/-- An idle side drops a Resume Pulse, held or not. -/
theorem muxResume_held {s : State} {c : Unit16} (h : s.mux[c].out.held = true) (ha : s.mux[c].out.active = true) :
    muxResume s c = s := by
  simp only [muxResume, h, ha, Bool.not_true, Bool.false_eq_true, if_false, if_true, ite_self]

theorem onChannel_same {s : State} {c : Unit16} {f : State → Unit16 → State} (h : f s c = s) : onChannel s c f = s := by
  rw [onChannel, h, ite_self]

/-- So the turn of such an agent changes nothing. -/
theorem agentStep_held {s : State} {c : Unit16} {e : Event}
    (h : s.mux[c].inp.held = true ∧ (e = .muxSample c ∨ e = .muxRecord c)
      ∨ s.mux[c].out.held = true ∧ (e = .muxSend c ∨ e = .muxAhead c ∨ e = .muxResume c ∧ s.mux[c].out.active = true)) :
    turn s e = .next s := by
  rcases h with ⟨hin, rfl | rfl⟩ | ⟨hout, rfl | rfl | ⟨rfl, hactive⟩⟩ <;> refine congrArg Host.Outcome.next (onChannel_same ?_)
  · exact muxSample_held hin
  · exact muxRecord_held hin
  · exact muxSend_held hout
  · exact muxAhead_held hout
  · exact muxResume_held hout hactive

/-- Settles O41: a held side's turn does nothing, and an advance crosses a boundary at the middle and at the end alone. -/
theorem bufferThresholdsRaiseRequests : Obligations.BufferThresholdsRaiseRequests := by
  refine ⟨fun s c e he hheld => ?_, fun m h => ?_, fun m b hrec hmin hmax ha => ?_, fun m b hmin hmax ha => ?_⟩
  · rw [step, he, agentStep_held (s := popEvent s) hheld, onNext]
  · rw [MuxIn.levelUp, h, Bool.not_true, Bool.and_false]
  · obtain ⟨heq, hevent, hnone⟩ := MuxIn.stored_spec m b
    have hcrossed := crossed_bufNext_iff hmin hmax ha
    refine ⟨?_, fun h => hevent (.inr (hcrossed.2 h)), fun h1 h2 => hnone hrec ?_, by rw [heq]⟩
    · rw [heq]
      exact toNat_bufNext hmax ha
    · rw [Bool.eq_false_iff, ne_eq, hcrossed]
      exact not_or.2 ⟨h1, h2⟩
  · obtain ⟨heq, hevent, hnone⟩ := MuxOut.advance_spec m b
    have hcrossed := crossed_bufNext_iff hmin hmax ha
    refine ⟨?_, fun h => hevent (hcrossed.2 h), fun h1 h2 => hnone ?_, by rw [heq]⟩
    · rw [heq]
      exact toNat_bufNext hmax ha
    · rw [Bool.eq_false_iff, ne_eq, hcrossed]
      exact not_or.2 ⟨h1, h2⟩

end Sys2Proof.Machine
end

section
/-!
The transfers of a channel (20_memory.md R107 to R112): words of 12 bits assembled and stored, delivered and sent on.
-/

namespace Sys2Proof.Machine

open Sys2Proof

/-! ### Assembly (R72, R108) -/

/-- One position on, of the five of a word. -/
theorem toNat_position_add_one {d : BitVec 3} (h : d.toNat < 5) : (d + 1).toNat = d.toNat + 1 := by
  have hone : (1 : BitVec 3).toNat = 1 := rfl
  rw [BitVec.toNat_add_of_lt, hone]
  omega

theorem MuxIn.toNat_sample_asmCnt {m : MuxIn} (high : Bool) (w : Word12) (h : m.asmCnt.toNat < 4) :
    (m.sample high w).asmCnt.toNat = m.asmCnt.toNat + 1 := by
  have hnot : decide (4 ≤ m.asmCnt.toNat) = false := decide_eq_false (Nat.not_le.2 h)
  simp only [MuxIn.sample, hnot, Bool.false_eq_true, if_false]
  exact toNat_position_add_one (by omega)

/-- The fifth word makes the Word Request. -/
theorem MuxIn.sample_wordReq (m : MuxIn) (high : Bool) (w : Word12) :
    (m.sample high w).wordReq = decide (4 ≤ m.asmCnt.toNat) := rfl

theorem MuxIn.sample_asm (m : MuxIn) (high : Bool) (w : Word12) :
    (m.sample high w).asm = assemble m.asm m.asmCnt.toNat w := rfl

theorem MuxIn.sample_five (m : MuxIn) (high : Bool) (w0 w1 w2 w3 w4 : Word12) (h : m.asmCnt = 0) :
    ((((((m.sample high w0).sample high w1).sample high w2).sample high w3).sample high w4).asm
        = w0 ++ w1 ++ w2 ++ w3 ++ w4)
      ∧ ((((m.sample high w0).sample high w1).sample high w2).sample high w3).wordReq = false
      ∧ (((((m.sample high w0).sample high w1).sample high w2).sample high w3).sample high w4).wordReq = true := by
  have h0 : m.asmCnt.toNat = 0 := by rw [h]; rfl
  have h1 : (m.sample high w0).asmCnt.toNat = 1 := by rw [toNat_sample_asmCnt _ _ (by omega), h0]
  have h2 : ((m.sample high w0).sample high w1).asmCnt.toNat = 2 := by rw [toNat_sample_asmCnt _ _ (by omega), h1]
  have h3 : (((m.sample high w0).sample high w1).sample high w2).asmCnt.toNat = 3 := by
    rw [toNat_sample_asmCnt _ _ (by omega), h2]
  have h4 : ((((m.sample high w0).sample high w1).sample high w2).sample high w3).asmCnt.toNat = 4 := by
    rw [toNat_sample_asmCnt _ _ (by omega), h3]
  refine ⟨?_, ?_, ?_⟩
  · rw [sample_asm, h4, sample_asm, h3, sample_asm, h2, sample_asm, h1, sample_asm, h0, assemble_five]
  · rw [sample_wordReq, h3]; rfl
  · rw [sample_wordReq, h4]; rfl

/-! ### Record Pulses (R109) -/

/-- With no word in part the event comes at once. -/
theorem MuxIn.record_empty {m : MuxIn} (h : m.asmCnt = 0) :
    m.record = { m with recIn := m.recIn - 1, sentS := m.sentS + 1, ireq := m.record.ireq, held := m.record.held }
      ∧ OneEvent m.ireq m.lockout m.held m.record.ireq m.record.held := by
  have heq : m.record = MuxIn.event { m with recIn := m.recIn - 1, sentS := m.sentS + 1 } := by
    simp only [record, if_pos h]
  rw [heq]
  exact event_spec _

/-- A word in part is filled with zeros and waits for SCM. -/
theorem MuxIn.record_partial {m : MuxIn} (h : m.asmCnt ≠ 0) :
    m.record = { m with
      recIn := m.recIn - 1, sentS := m.sentS + 1, asm := zeroFill m.asm m.asmCnt.toNat, asmCnt := 0, wordReq := true
      endRec := true } := by
  simp only [record, if_neg h]

/-- Either way the pulse is served and answered. -/
theorem MuxIn.record_pulses (m : MuxIn) : m.record.recIn = m.recIn - 1 ∧ m.record.sentS = m.sentS + 1 := by
  by_cases h : m.asmCnt = 0
  · rw [(record_empty h).1]
    exact ⟨rfl, rfl⟩
  · rw [record_partial h]
    exact ⟨rfl, rfl⟩

/-- The storage of the word that a Record Pulse has completed raises the record's event. -/
theorem MuxIn.stored_record {m : MuxIn} (b : Buffer) (h : m.asmCnt ≠ 0) :
    OneEvent m.ireq m.lockout m.held (m.record.stored b).ireq (m.record.stored b).held := by
  have hevent := (m.record.stored_spec b).2.1 (.inl (by rw [record_partial h]))
  rw [record_partial h] at hevent ⊢
  exact hevent

/-! ### SCM and the channels (R108, R110) -/

section Served

variable {s : State} {c : Unit16}

/-- The word of an input side that is served goes into SCM. -/
theorem muxStore_of_served (h : servedRequest s = some (.mux c true)) : muxStore s c =
    scmStore (scmServed (setIn s c (s.mux[c].inp.stored s.cfg.inBuf[c])) (.mux c true))
      (bufScm s.cfg.inBuf[c] s.mux[c].inp.bufAddr) s.mux[c].inp.asm := by
  simp only [muxStore, if_pos h]

/-- The word that an output side has requested is delivered. -/
theorem muxFetch_of_served (h : servedRequest s = some (.mux c false)) (hn : NoParity s)
    (hx : scmExists s (bufScm s.cfg.outBuf[c] s.mux[c].out.bufAddr) = true) {v : Word60}
    (hv : v = memRead s.scm (bufScm s.cfg.outBuf[c] s.mux[c].out.bufAddr).toNat) :
    muxFetch s c = scmServed (setOut s c (
      if s.cfg.highSpeed[c] = true then { s.mux[c].out with dis := v, wordReq := false, disCnt := 0 }
      else { s.mux[c].out with
        dis := v, wordReq := false, disCnt := 0, lines := v.extractLsb' 48 12, owesWord := true })) (.mux c false) := by
  simp only [muxFetch, if_pos h, scmValue_none hn.1 hx, ← hv, disassemble_eq]
  exact scmDetect_none _ hn.1

/-! ### A normal output channel (R110) -/

theorem muxSend_normal (hspeed : s.cfg.highSpeed[c] = false) (hactive : s.mux[c].out.active = true)
    (hheld : s.mux[c].out.held = false) (howes : s.mux[c].out.owesWord = true) :
    muxSend s c = setOut s c { s.mux[c].out with
      owesWord := false, sentW := s.mux[c].out.sentW + 1, sentR := s.mux[c].out.sentR + s.mux[c].out.owesRec
      owesRec := 0 } := by
  simp only [muxSend, hspeed, hactive, hheld, howes, Bool.not_true, Bool.or_false, Bool.false_eq_true, if_false, if_true]

/-- A Resume of a normal channel, as it serves one: the next position, or after the fifth word a request for the next. -/
def MuxOut.resumed (m : MuxOut) (b : Buffer) : MuxOut :=
  let t := { m with resIn := m.resIn - 1, disCnt := m.disCnt + 1 }
  let u := if m.disCnt = 0 then t.advance b else t
  if m.disCnt.toNat < 4 then { u with lines := disassemble m.dis (m.disCnt.toNat + 1), owesWord := true }
  else { u with disCnt := 5, wordReq := true }

theorem muxResume_normal (hspeed : s.cfg.highSpeed[c] = false) (hactive : s.mux[c].out.active = true)
    (hheld : s.mux[c].out.held = false) (howes : s.mux[c].out.owesWord = false) (hreq : s.mux[c].out.wordReq = false)
    (hres : 0 < s.mux[c].out.resIn) : muxResume s c = setOut s c (s.mux[c].out.resumed s.cfg.outBuf[c]) := by
  have hsome : decide (s.mux[c].out.resIn = 0) = false := decide_eq_false (Nat.pos_iff_ne_zero.1 hres)
  simp only [muxResume, MuxOut.resumed, hsome, hspeed, hactive, hheld, howes, hreq, Bool.not_true, Bool.or_false,
    Bool.false_eq_true, if_false]
  split <;> rfl

/-! ### A high-speed output channel (R112) -/

/-- A word moved into the ranks: the address advances with the second, and the fifth asks for the next. -/
def MuxOut.ranked (m : MuxOut) (b : Buffer) : MuxOut :=
  let t := { m with ranks := m.ranks ++ [disassemble m.dis m.disCnt.toNat], disCnt := m.disCnt + 1 }
  let u := if m.disCnt = 1 then t.advance b else t
  if m.disCnt = 4 then { u with wordReq := true } else u

theorem muxAhead_moves (hspeed : s.cfg.highSpeed[c] = true) (hactive : s.mux[c].out.active = true)
    (hheld : s.mux[c].out.held = false) (hreq : s.mux[c].out.wordReq = false) (hranks : s.mux[c].out.ranks.length < 3)
    (hdis : s.mux[c].out.disCnt.toNat < 5) : muxAhead s c = setOut s c (s.mux[c].out.ranked s.cfg.outBuf[c]) := by
  simp only [muxAhead, MuxOut.ranked, hspeed, hactive, hheld, hreq, decide_eq_true hranks, decide_eq_true hdis, Bool.not_false,
    Bool.and_self, if_true]

end Served

/-- An advance under a condition: the address, the request and the held event, and nothing else. -/
theorem MuxOut.advanceIf_spec (m : MuxOut) (b : Buffer) (p : Prop) [Decidable p] :
    (if p then m.advance b else m) = { m with
      bufAddr := if p then bufNext b m.bufAddr else m.bufAddr
      ireq := (if p then m.advance b else m).ireq, held := (if p then m.advance b else m).held } := by
  split
  · exact (m.advance_spec b).1
  · rfl

theorem MuxOut.resumed_spec {m : MuxOut} (b : Buffer) (howes : m.owesWord = false) (hreq : m.wordReq = false)
    (hdis : m.disCnt.toNat ≤ 4) :
    (m.resumed b).resIn = m.resIn - 1 ∧ (m.resumed b).disCnt.toNat = m.disCnt.toNat + 1
      ∧ (m.resumed b).bufAddr = (if m.disCnt = 0 then bufNext b m.bufAddr else m.bufAddr)
      ∧ (m.disCnt.toNat < 4 → (m.resumed b).wordReq = false ∧ (m.resumed b).owesWord = true
          ∧ (m.resumed b).lines = m.dis.extractLsb' (36 - 12 * m.disCnt.toNat) 12)
      ∧ (m.disCnt.toNat = 4 → (m.resumed b).wordReq = true ∧ (m.resumed b).owesWord = false
          ∧ (m.resumed b).lines = m.lines) := by
  have hadvance := advanceIf_spec { m with resIn := m.resIn - 1, disCnt := m.disCnt + 1 } b (m.disCnt = 0)
  have hcount := toNat_position_add_one (Nat.lt_succ_of_le hdis)
  unfold resumed
  dsimp only
  rw [hadvance]
  split
  · rename_i hlt
    have hposition : 48 - 12 * (m.disCnt.toNat + 1) = 36 - 12 * m.disCnt.toNat := by omega
    exact ⟨rfl, hcount, rfl, fun _ => ⟨hreq, rfl, by rw [disassemble_eq, hposition]⟩, fun h4 => absurd hlt (by omega)⟩
  · rename_i hge
    have h4 : m.disCnt.toNat = 4 := by omega
    exact ⟨rfl, by rw [h4]; rfl, rfl, fun hlt => absurd hlt hge, fun _ => ⟨rfl, howes, rfl⟩⟩

theorem MuxOut.ranked_spec {m : MuxOut} (b : Buffer) (hreq : m.wordReq = false) (hdis : m.disCnt.toNat < 5) :
    (m.ranked b).ranks = m.ranks ++ [m.dis.extractLsb' (48 - 12 * m.disCnt.toNat) 12]
      ∧ (m.ranked b).disCnt.toNat = m.disCnt.toNat + 1
      ∧ (m.ranked b).bufAddr = (if m.disCnt = 1 then bufNext b m.bufAddr else m.bufAddr)
      ∧ (m.ranked b).wordReq = decide (m.disCnt.toNat = 4) := by
  have hadvance := advanceIf_spec
    { m with ranks := m.ranks ++ [disassemble m.dis m.disCnt.toNat], disCnt := m.disCnt + 1 } b (m.disCnt = 1)
  have hcount := toNat_position_add_one hdis
  have hfour : m.disCnt = 4 ↔ m.disCnt.toNat = 4 := BitVec.toNat_inj.symm
  unfold ranked
  dsimp only
  rw [hadvance, ← disassemble_eq]
  split
  · rename_i h4
    exact ⟨rfl, hcount, rfl, (decide_eq_true (hfour.1 h4)).symm⟩
  · rename_i h4
    exact ⟨rfl, hcount, rfl, hreq.trans (decide_eq_false (h4 ∘ hfour.2)).symm⟩

/-- Settles O40: the input side's words, its Record Pulses and its storage; the delivery, and the two kinds of output. -/
theorem fiveWordsAssembleInOrder : Obligations.FiveWordsAssembleInOrder := by
  refine ⟨MuxIn.sample_five, fun m b _ => ?_, fun s c a m hserved hn ha hx hm => ?_, fun s c v hserved hn hx hv => ?_,
    fun s c hspeed hactive hheld => ⟨fun howes => ?_, fun howes hreq hres hdis => ?_⟩,
    fun s c hspeed hactive hheld hreq hranks hdis => ?_⟩
  · obtain ⟨hrec, hresume⟩ := m.record_pulses
    refine ⟨hrec, hresume, fun h => ?_, fun h => ?_⟩
    · obtain ⟨heq, hevent⟩ := MuxIn.record_empty h
      exact ⟨by rw [heq], by rw [heq], by rw [heq], hevent⟩
    · have heq := MuxIn.record_partial h
      refine ⟨by rw [heq], by rw [heq], fun n hlt => ?_, by rw [heq], by rw [heq], MuxIn.stored_record b h⟩
      rw [heq]
      exact getLsbD_zeroFill _ _ hlt
  · subst ha hm
    obtain ⟨hframe, hword, hothers, -⟩ := scmStore_spec
      (s := scmServed (setIn s c (s.mux[c].inp.stored s.cfg.inBuf[c])) (.mux c true)) s.mux[c].inp.asm hn.1 hx
    rw [← muxStore_of_served hserved] at hframe hword hothers
    have hstored := (s.mux[c].inp.stored_spec s.cfg.inBuf[c]).1
    exact ⟨_, rfl, hword, hothers, by rw [hstored], by rw [hstored], by rw [hstored], hframe⟩
  · rw [muxFetch_of_served hserved hn hx hv]
    rfl
  · exact muxSend_normal hspeed hactive hheld howes
  · exact ⟨_, muxResume_normal hspeed hactive hheld howes hreq hres, MuxOut.resumed_spec _ howes hreq hdis⟩
  · exact ⟨_, muxAhead_moves hspeed hactive hheld hreq hranks hdis, MuxOut.ranked_spec _ hreq hdis⟩

end Sys2Proof.Machine
end

section
/-!
Storage protection (20_memory.md R77, R91, R92): what an instruction, and each word of a block copy, may change of SCM and
LCM; and the write of the MCU, which no field bounds (R114).
-/

namespace Sys2Proof.Machine

open Sys2Proof

/-! ### Two relations -/

/-- The storage of both kinds, where the fields lie, and the stores on record are the same. -/
structure SameStorage (s t : State) : Prop where
  scm : t.scm = s.scm
  lcm : t.lcm = s.lcm
  recent : t.cpu.recent = s.cpu.recent
  ras : t.cpu.ras = s.cpu.ras
  fls : t.cpu.fls = s.cpu.fls
  ral : t.cpu.ral = s.cpu.ral
  fll : t.cpu.fll = s.cpu.fll

/-- From `s` to `t` no word of SCM or LCM has changed outside the fields of `s`. -/
structure StoresInside (s t : State) : Prop where
  scm : ∀ n, memRead t.scm n ≠ memRead s.scm n → ∃ r : Word18, r < s.cpu.fls ∧ n = (scmAbs s r).toNat
  lcm : ∀ n, memRead t.lcm n ≠ memRead s.lcm n → ∃ r : BitVec 19, r < s.cpu.fll ∧ n = (lcmAbs s r).toNat

/-- Every store on record was made inside the storage field (the part of `CpuOk` that bounds what R489 undoes). -/
def RecentInField (s : State) : Prop :=
  ∀ a old, ScmRef.store a old ∈ s.cpu.recent → ∃ r : Word18, r < s.cpu.fls ∧ a = scmAbs s r

theorem SameStorage.refl (s : State) : SameStorage s s := ⟨rfl, rfl, rfl, rfl, rfl, rfl, rfl⟩

theorem SameStorage.trans {s t u : State} (h : SameStorage s t) (k : SameStorage t u) : SameStorage s u :=
  ⟨k.scm.trans h.scm, k.lcm.trans h.lcm, k.recent.trans h.recent, k.ras.trans h.ras, k.fls.trans h.fls, k.ral.trans h.ral,
    k.fll.trans h.fll⟩

theorem SameStorage.recentInField {s t : State} (h : SameStorage s t) (k : RecentInField s) : RecentInField t := by
  intro a old ha
  rw [h.recent] at ha
  simpa only [scmAbs, h.ras, h.fls] using k a old ha

theorem StoresInside.of_eq {s t : State} (hs : t.scm = s.scm) (hl : t.lcm = s.lcm) : StoresInside s t :=
  ⟨fun n hn => absurd (by rw [hs]) hn, fun n hn => absurd (by rw [hl]) hn⟩

theorem SameStorage.inside {s t : State} (h : SameStorage s t) : StoresInside s t := .of_eq h.scm h.lcm

/-- Before and after what leaves the storage alone, the bound is the same. -/
theorem StoresInside.after {s t u : State} (h : SameStorage s t) (k : StoresInside t u) : StoresInside s u := by
  obtain ⟨kscm, klcm⟩ := k
  simp only [scmAbs, lcmAbs, h.scm, h.lcm, h.ras, h.fls, h.ral, h.fll] at kscm klcm
  exact ⟨kscm, klcm⟩

theorem StoresInside.and_then {s t u : State} (h : StoresInside s t) (hs : u.scm = t.scm) (hl : u.lcm = t.lcm) :
    StoresInside s u := by
  obtain ⟨hscm, hlcm⟩ := h
  rw [← hs] at hscm
  rw [← hl] at hlcm
  exact ⟨hscm, hlcm⟩

/-! ### Flags and parity errors -/

section Operations

variable {s t : State}

theorem setFlag_sameStorage (s : State) (f : PsdFlag) : SameStorage s (setFlag s f) := ⟨rfl, rfl, rfl, rfl, rfl, rfl, rfl⟩

theorem setFlagIf_sameStorage (s : State) (c : Bool) (f : PsdFlag) : SameStorage s (setFlagIf s c f) := by
  unfold setFlagIf
  split
  · exact setFlag_sameStorage s f
  · exact .refl s

theorem raiseWith_sameStorage (s : State) (f : PsdFlag) (n : Nat) : SameStorage s (raiseWith s f n) := by
  rw [(raiseWith_spec s f n).1]
  exact ⟨rfl, rfl, rfl, rfl, rfl, rfl, rfl⟩

theorem raiseLate_sameStorage (s : State) (f : PsdFlag) : SameStorage s (raiseLate s f) := raiseWith_sameStorage s f _

theorem raiseNow_sameStorage (s : State) (f : PsdFlag) : SameStorage s (raiseNow s f) := raiseWith_sameStorage s f 0

theorem scmDetect_sameStorage (s : State) (a : ScmAddr) : SameStorage s (scmDetect s a) := by
  obtain ⟨_, _, _, _, _, h⟩ := scmDetect_frame s a
  rw [h]
  exact ⟨rfl, rfl, rfl, rfl, rfl, rfl, rfl⟩

theorem lcmDetect_sameStorage (s : State) (a : LcmAddr) : SameStorage s (lcmDetect s a) := by
  obtain ⟨_, _, _, _, h⟩ := lcmDetect_frame s a
  rw [h]
  exact ⟨rfl, rfl, rfl, rfl, rfl, rfl, rfl⟩

theorem setX_sameStorage (s : State) (i : Reg) (v : Word60) : SameStorage s (setX s i v) := ⟨rfl, rfl, rfl, rfl, rfl, rfl, rfl⟩

theorem setAReg_sameStorage (s : State) (i : Reg) (v : Word18) : SameStorage s (setAReg s i v) :=
  ⟨rfl, rfl, rfl, rfl, rfl, rfl, rfl⟩

theorem setB_sameStorage (s : State) (i : Reg) (v : Word18) : SameStorage s (setB s i v) := by
  rw [(setB_spec s i v).1.1]
  exact ⟨rfl, rfl, rfl, rfl, rfl, rfl, rfl⟩

/-! ### Stores -/

/-- A store to a word of the SCM field. -/
theorem scmPut_inside {r : Word18} (v : Word60) (h : r < s.cpu.fls) : StoresInside s (scmPut s (scmAbs s r) v) := by
  obtain ⟨hframe, hothers, -⟩ := scmPut_spec s (scmAbs s r) v
  refine ⟨fun n hn => ⟨r, h, ?_⟩, fun n hn => absurd (by rw [hframe]) hn⟩
  by_contra hne
  exact hn (hothers n hne)

/-- A store to a word of the LCM field. -/
theorem lcmPut_inside {r : BitVec 19} (v : Word60) (h : r < s.cpu.fll) : StoresInside s (lcmPut s (lcmAbs s r) v) := by
  obtain ⟨hframe, hothers, -⟩ := lcmPut_spec s (lcmAbs s r) v
  refine ⟨fun n hn => absurd (by rw [hframe]) hn, fun n hn => ⟨r, h, ?_⟩⟩
  by_contra hne
  exact hn (hothers n hne)

theorem scmStore_inside {r : Word18} (v : Word60) (h : r < s.cpu.fls) : StoresInside s (scmStore s (scmAbs s r) v) := by
  have hdetect := scmDetect_sameStorage (scmForget (scmPut s (scmAbs s r) v) (scmAbs s r)) (scmAbs s r)
  exact (scmPut_inside v h).and_then hdetect.scm hdetect.lcm

/-- What SCM Direct Range undoes was stored inside the field (R489). -/
theorem beforeRange_inside (h : RecentInField s) : StoresInside s (beforeRange s) := by
  obtain ⟨hframe, heffect⟩ := beforeRange_spec s
  refine ⟨fun n hn => ?_, fun n hn => absurd (by rw [hframe]) hn⟩
  unfold RangeEffect at heffect
  split at heffect
  · exact absurd (by rw [heffect.1]) hn
  · obtain ⟨a, rfl, ha⟩ := (heffect.2 n).resolve_left hn
    obtain ⟨r, hr, rfl⟩ := h a _ ha
    exact ⟨r, hr, rfl⟩

theorem rangeLate_inside (h : RecentInField s) : StoresInside s (rangeLate s) := by
  have hraise := raiseLate_sameStorage (beforeRange s) .scmDirectRange
  exact (beforeRange_inside h).and_then hraise.scm hraise.lcm

theorem rangeNow_inside (h : RecentInField s) : StoresInside s (rangeNow s) := (beforeRange_inside h).and_then rfl rfl

/-! ### Instructions -/

/-- 50 to 57 with i = 1 to 5 store nothing; a range error may undo stores. -/
theorem loadX_inside (h : RecentInField s) (i : Reg) (r : Word18) : StoresInside s (loadX s i r) := by
  have hread := (setX_sameStorage s i (scmValue s 0 (scmAbs s r))).trans (scmDetect_sameStorage _ (scmAbs s r))
  unfold loadX
  dsimp only
  split
  · exact hread.inside.and_then rfl rfl
  · split
    · have hzero := setX_sameStorage s i 0
      exact (rangeLate_inside (hzero.recentInField h)).after hzero
    · exact (rangeLate_inside (hread.recentInField h)).after hread

theorem storeX_inside (h : RecentInField s) (i : Reg) (r : Word18) : StoresInside s (storeX s i r) := by
  unfold storeX
  dsimp only
  split
  · rename_i hr
    split
    · exact (SameStorage.refl s).inside
    · have hdetect := scmDetect_sameStorage (scmPut s (scmAbs s r) (getX s i)) (scmAbs s r)
      exact (scmPut_inside _ hr).and_then hdetect.scm hdetect.lcm
  · exact rangeLate_inside h

theorem setAddr_inside (h : RecentInField s) (i : Reg) (r : Word18) : StoresInside s (setAddr s i r) := by
  have ha := setAReg_sameStorage s i r
  unfold setAddr
  dsimp only
  split
  · exact ha.inside
  · split
    · exact (loadX_inside (ha.recentInField h) i r).after ha
    · exact (storeX_inside (ha.recentInField h) i r).after ha

theorem returnStore_inside (h : RecentInField s) (K : Word18) : StoresInside s (returnStore s K) := by
  unfold returnStore
  split
  · exact rangeNow_inside h
  · rename_i hK
    split
    · exact (SameStorage.refl s).inside
    · exact scmStore_inside _ (BitVec.not_le.1 hK)

theorem returnJump_inside (h : RecentInField s) (K : Word18) : StoresInside s (returnJump s K) := by
  have hflags := (setFlagIf_sameStorage (returnStore s K) (K == 0) .programRange).trans
    (setFlagIf_sameStorage _ (K == s.cpu.bpa) .breakpoint)
  have hstored := (returnStore_inside h K).and_then hflags.scm hflags.lcm
  unfold returnJump
  dsimp only
  split <;> exact hstored.and_then rfl rfl

/-- 011 and 012 themselves move no word. -/
theorem blockCopy_sameStorage (s : State) (j : Reg) (K : Word18) (toScm : Bool) : SameStorage s (blockCopy s j K toScm) := by
  have raised (t : State) (b : Bool) (f : PsdFlag) : SameStorage t (if b = true then raiseNow t f else t) := by
    split
    · exact raiseNow_sameStorage t f
    · exact .refl t
  unfold blockCopy
  dsimp only
  split
  · exact .refl s
  · split
    · exact (raised s _ _).trans (raised _ _ _)
    · exact ⟨rfl, rfl, rfl, rfl, rfl, rfl, rfl⟩

theorem readLcm_sameStorage (s : State) (j : Reg) (r : BitVec 19) : SameStorage s (readLcm s j r) := by
  unfold readLcm
  dsimp only
  split
  · exact (setX_sameStorage s j _).trans (lcmDetect_sameStorage _ _)
  · exact ((raiseLate_sameStorage s _).trans (setX_sameStorage _ j _)).trans (lcmDetect_sameStorage _ _)

theorem writeLcm_inside (s : State) (j : Reg) (r : BitVec 19) : StoresInside s (writeLcm s j r) := by
  unfold writeLcm
  split
  · rename_i hr
    exact lcmPut_inside _ hr
  · exact (raiseLate_sameStorage s _).inside

theorem deliver_sameStorage (s : State) (i : Reg) (r : FpResult) : SameStorage s (deliver s i r) := by
  unfold deliver
  dsimp only
  split
  · exact (setX_sameStorage s i _).trans (raiseLate_sameStorage _ _)
  · exact setX_sameStorage s i _

theorem CpuEffect.inside (he : CpuEffect s t) (h : RecentInField s) : StoresInside s t := by
  cases he with
  | setsA i r => exact setAddr_inside h i r
  | returnJump K => exact returnJump_inside h K
  | writeLcm j r => exact writeLcm_inside s j r
  | pass => exact (SameStorage.refl s).inside
  | setsX i v => exact (setX_sameStorage s i v).inside
  | setsB i v => exact (setB_sameStorage s i v).inside
  | setsXB i j v w => exact ((setX_sameStorage s i v).trans (setB_sameStorage _ j w)).inside
  | delivers i r hr => exact (deliver_sameStorage s i r).inside
  | jumps c t =>
    unfold jumpIf
    split <;> exact .of_eq rfl rfl
  | blockCopy j K toScm => exact (blockCopy_sameStorage s j K toScm).inside
  | readLcm j r => exact (readLcm_sameStorage s j r).inside
  | errorStop | exchangeExit a | resetInput c | resetOutput c => exact .of_eq rfl rfl

/-- A PPU's instruction leaves SCM and LCM alone. -/
theorem PpuEffect.inside (he : PpuEffect s t) : StoresInside s t := by
  rw [he.alone.1]
  exact .of_eq rfl rfl

theorem exec_inside {i : Instr} (h : RecentInField s) (e : exec i s = .next t) : StoresInside s t :=
  (exec_effect e).elim (·.inside h) (·.inside)

/-! ### Block copies (R96) -/

theorem copyToScm_inside {r : Word18} (l : BitVec 19) (h : r < s.cpu.fls) : StoresInside s (copyToScm s l r) := by
  have hread := lcmDetect_sameStorage s (lcmAbs s l)
  have habs : scmAbs s r = scmAbs (lcmDetect s (lcmAbs s l)) r := by rw [scmAbs, scmAbs, hread.ras]
  rw [copyToScm, habs]
  exact (scmStore_inside _ (by rw [hread.fls]; exact h)).after hread

theorem copyToLcm_inside {l : BitVec 19} (r : Word18) (h : l < s.cpu.fll) : StoresInside s (copyToLcm s l r) := by
  have hread := scmDetect_sameStorage s (scmAbs s r)
  have habs : lcmAbs s l = lcmAbs (scmDetect s (scmAbs s r)) l := by rw [lcmAbs, lcmAbs, hread.ral]
  rw [copyToLcm, habs]
  exact (lcmPut_inside _ (by rw [hread.fll]; exact h)).after hread

/-- Each word of a copy in progress stays in both fields. -/
theorem copyStep_inside {c : CopyRun} (h : CpuOk s.cfg s.cpu) (hphase : s.cpu.phase = .copying c) (hleft : c.left ≠ 0) :
    StoresInside s (copyStep s c) := by
  obtain ⟨-, hscm, hlcm⟩ := h.copyIn c hphase
  have hr : c.scm < s.cpu.fls := BitVec.lt_def.2 (by omega)
  have hl : c.lcm < s.cpu.fll := BitVec.lt_def.2 (by omega)
  unfold copyStep
  dsimp only
  split
  · exact (copyToScm_inside _ hr).and_then rfl rfl
  · exact (copyToLcm_inside _ hl).and_then rfl rfl

end Operations

/-! ### The MCU's write (R114) -/

/-- A store that becomes done leaves the record of every other word. -/
theorem store_mem_settle_iff {a b : ScmAddr} {old : Word60} {l : List ScmRef} (h : b ≠ a) :
    ScmRef.store b old ∈ l.map (settleRef a) ↔ ScmRef.store b old ∈ l := by
  refine ⟨mem_settle, fun hm => List.mem_map.2 ⟨_, hm, ?_⟩⟩
  rw [settleRef, if_neg h.symm]

/-- After a store of anything but an instruction 50 to 57, the stores to other words stay on record. -/
theorem scmStore_record {s : State} {a : ScmAddr} (v : Word60) {b : ScmAddr} {old : Word60} (h : b ≠ a) :
    ScmRef.store b old ∈ (scmStore s a v).cpu.recent ↔ ScmRef.store b old ∈ s.cpu.recent := by
  have hrecent : (scmStore s a v).cpu.recent = s.cpu.recent.map (settleRef a) := by
    rw [scmStore, (scmDetect_sameStorage _ _).recent, scmForget_cpu_recent, scmPut_cpu]
  rw [hrecent]
  exact store_mem_settle_iff h

theorem CpuOk.recentInField {s : State} (h : CpuOk s.cfg s.cpu) : RecentInField s := h.inField

/-- Settles O48: an instruction's stores and a copy's words by the fields of `CpuOk`, the MCU's write by the store itself. -/
theorem storesStayInsideTheField : Obligations.StoresStayInsideTheField := by
  refine ⟨fun i s t hok h => ?_, fun s c hok hphase hleft => ?_, fun s a v he hserved hn hx => ?_⟩
  · have hinside := exec_inside hok.recentInField h
    exact ⟨hinside.scm, hinside.lcm⟩
  · have hinside := copyStep_inside hok hphase hleft
    exact ⟨hinside.scm, hinside.lcm⟩
  · have hstore : mcuStore (popEvent s) = scmStore (scmServed (popEvent s) (.mcu a v)) a v :=
      mcuStore_of_served (s := popEvent s) hserved
    obtain ⟨hframe, hword, hothers, hforgot⟩ := scmStore_spec (s := scmServed (popEvent s) (.mcu a v)) v hn.1 hx
    refine ⟨_, ?_, hword, hothers, hframe, hforgot, fun b old hne => scmStore_record v hne⟩
    rw [step, he, ← hstore]
    rfl

end Sys2Proof.Machine
end

section
/-!
Encoding and decoding (30_encoding.md R122 to R127, R140, R141): what each field of a written parcel or PPU word reads as,
and from it that the decoder undoes the encoder in both instruction sets.
-/

namespace Sys2Proof

/-! ### The fields of a written CPU parcel (R122, R123) -/

theorem parcel15_toNat {gh : Nat} (h : gh < 64) (i j k : Reg) :
    (parcel15 gh i j k).toNat = gh * 512 + i.val * 64 + j.val * 8 + k.val := by
  rw [parcel15, BitVec.toNat_ofNat, Nat.mod_eq_of_lt]
  omega

theorem codeGH_parcel15 {gh : Nat} (h : gh < 64) (i j k : Reg) : codeGH (parcel15 gh i j k) = gh := by
  rw [codeGH, parcel15_toNat h]
  omega

theorem desI_parcel15 {gh : Nat} (h : gh < 64) (i j k : Reg) : desI (parcel15 gh i j k) = i := by
  apply Fin.ext
  simp only [desI, parcel15_toNat h]
  omega

theorem desJ_parcel15 {gh : Nat} (h : gh < 64) (i j k : Reg) : desJ (parcel15 gh i j k) = j := by
  apply Fin.ext
  simp only [desJ, parcel15_toNat h]
  omega

theorem desK_parcel15 {gh : Nat} (h : gh < 64) (i j k : Reg) : desK (parcel15 gh i j k) = k := by
  apply Fin.ext
  simp only [desK, parcel15_toNat h]
  omega

/-- The j digit of a 6-bit count jk. -/
def countJ (jk : BitVec 6) : Reg := ⟨jk.toNat / 8, by omega⟩

/-- The k digit of a 6-bit count jk. -/
def countK (jk : BitVec 6) : Reg := ⟨jk.toNat % 8, by omega⟩

/-- K[17:15], which stand in the k position of the first parcel (R123). -/
def constHigh (K : Word18) : Reg := ⟨K.toNat / 32768, by omega⟩

/-- K[14:0], the second parcel (R123). -/
def constLow (K : Word18) : Parcel := BitVec.ofNat 15 (K.toNat % 32768)

theorem encJK_eq_enc15 (gh : Nat) (i : Reg) (jk : BitVec 6) : encJK gh i jk = enc15 gh i (countJ jk) (countK jk) := by
  have hdigits : gh * 512 + i.val * 64 + jk.toNat = gh * 512 + i.val * 64 + jk.toNat / 8 * 8 + jk.toNat % 8 := by omega
  rw [encJK, hdigits]
  rfl

theorem enc30_eq_cpu (gh : Nat) (i j : Reg) (K : Word18) :
    enc30 gh i j K = .cpu (parcel15 gh i j (constHigh K)) (some (constLow K)) := rfl

theorem desJK_parcel15 {gh : Nat} (h : gh < 64) (i : Reg) (jk : BitVec 6) :
    desJK (parcel15 gh i (countJ jk) (countK jk)) = jk := by
  apply BitVec.eq_of_toNat_eq
  simp only [desJK, parcel15_toNat h, countJ, countK, BitVec.toNat_ofNat]
  omega

theorem constK_parcel15 {gh : Nat} (h : gh < 64) (i j : Reg) (K : Word18) :
    constK (parcel15 gh i j (constHigh K)) (constLow K) = K := by
  apply BitVec.eq_of_toNat_eq
  simp only [constK, parcel15_toNat h, constHigh, constLow, BitVec.toNat_ofNat]
  omega

/-! ### The fields of a written PPU word (R140) -/

/-- The PPU word of an operation code f and its d. -/
def ppuWordOf (f : Nat) (d : BitVec 6) : Word12 := BitVec.ofNat 12 (f * 64 + d.toNat)

theorem enc12_eq_ppu (f : Nat) (d : BitVec 6) : enc12 f d = .ppu (ppuWordOf f d) none := rfl

theorem enc24_eq_ppu (f : Nat) (d : BitVec 6) (m : Word12) : enc24 f d m = .ppu (ppuWordOf f d) (some m) := rfl

theorem ppuWordOf_toNat {f : Nat} (h : f < 64) (d : BitVec 6) : (ppuWordOf f d).toNat = f * 64 + d.toNat := by
  rw [ppuWordOf, BitVec.toNat_ofNat, Nat.mod_eq_of_lt]
  omega

theorem codeF_ppuWordOf {f : Nat} (h : f < 64) (d : BitVec 6) : codeF (ppuWordOf f d) = f := by
  rw [codeF, ppuWordOf_toNat h]
  omega

theorem fieldD_ppuWordOf {f : Nat} (h : f < 64) (d : BitVec 6) : fieldD (ppuWordOf f d) = d := by
  apply BitVec.eq_of_toNat_eq
  rw [fieldD, ppuWordOf_toNat h, BitVec.toNat_ofNat]
  omega

/-! ### Decoding the five written forms

Each form is read through its fields alone: where the decoder names `x` for every word with the fields written, it names `x`
for the form. -/

theorem decode_enc15 {em : Bool} {gh : Nat} {i j k : Reg} {x : Instr} (hgh : gh < 64)
    (h : ∀ p, codeGH p = gh → desI p = i → desJ p = j → desK p = k → decodeCpu em p 0 = x) :
    decode em (enc15 gh i j k) = .ok x :=
  congrArg Except.ok (h _ (codeGH_parcel15 hgh i j k) (desI_parcel15 hgh i j k) (desJ_parcel15 hgh i j k)
    (desK_parcel15 hgh i j k))

theorem decode_encJK {em : Bool} {gh : Nat} {i : Reg} {jk : BitVec 6} {x : Instr} (hgh : gh < 64)
    (h : ∀ p, codeGH p = gh → desI p = i → desJK p = jk → decodeCpu em p 0 = x) :
    decode em (encJK gh i jk) = .ok x := by
  rw [encJK_eq_enc15]
  exact congrArg Except.ok (h _ (codeGH_parcel15 hgh _ _ _) (desI_parcel15 hgh _ _ _) (desJK_parcel15 hgh i jk))

theorem decode_enc30 {em : Bool} {gh : Nat} {i j : Reg} {K : Word18} {x : Instr} (hgh : gh < 64)
    (h : ∀ p q, codeGH p = gh → desI p = i → desJ p = j → constK p q = K → isLong em p = true ∧ decodeCpu em p q = x) :
    decode em (enc30 gh i j K) = .ok x := by
  obtain ⟨hlong, hx⟩ := h _ _ (codeGH_parcel15 hgh _ _ _) (desI_parcel15 hgh _ _ _) (desJ_parcel15 hgh _ _ _)
    (constK_parcel15 hgh i j K)
  rw [enc30_eq_cpu, decode, if_pos hlong, hx]

theorem decode_enc12 {em : Bool} {f : Nat} {d : BitVec 6} {x : Instr} (hf : f < 64)
    (h : ∀ w, codeF w = f → fieldD w = d → isLongPpu w = false ∧ decodePpu w 0 = x) :
    decode em (enc12 f d) = .ok x := by
  obtain ⟨hshort, hx⟩ := h _ (codeF_ppuWordOf hf d) (fieldD_ppuWordOf hf d)
  rw [enc12_eq_ppu, decode, if_neg (Bool.eq_false_iff.1 hshort), hx]

theorem decode_enc24 {em : Bool} {f : Nat} {d : BitVec 6} {m : Word12} {x : Instr} (hf : f < 64)
    (h : ∀ w, codeF w = f → fieldD w = d → isLongPpu w = true ∧ decodePpu w m = x) :
    decode em (enc24 f d m) = .ok x := by
  obtain ⟨hlong, hx⟩ := h _ (codeF_ppuWordOf hf d) (fieldD_ppuWordOf hf d)
  rw [enc24_eq_ppu, decode, if_pos hlong, hx]

/-! ### The decoder undoes the encoder -/

/-- A well-formed instruction is read back from its words, under an Exit Mode that names it: the five written forms, and
among the codes 013, 016 and 017 the ones whose meaning the Exit Mode flag or designator j chooses (R126, R127). -/
theorem decode_encode {i : Instr} {em : Bool} (hwf : i.WellFormed) (hnamed : i.namedUnder em = true) :
    decode em (encode i) = .ok i := by
  cases i
  case mj013Nea =>
    obtain rfl : em = false := by simpa [Instr.namedUnder] using hnamed
    exact decode_enc15 (by decide) fun p hg hi _ _ => by rw [decodeCpu, hg, hi]; rfl
  case mj013Bk j K =>
    obtain rfl : em = true := hnamed
    exact decode_enc30 (by decide) fun p q hg hi hj hK =>
      ⟨by rw [isLong, hg, hi]; rfl, by rw [decodeCpu, hg, hi, hj, hK]; rfl⟩
  case ib016 j k | ob017 j k =>
    have hj0 : j.val ≠ 0 := Fin.val_ne_iff.2 (of_decide_eq_true hwf)
    exact decode_enc15 (by decide) fun p hg hi hj hk => by
      rw [decodeCpu, hg, hi, hj, hk]
      exact if_neg hj0
  case es00 | rx014 | wx015 | ri0160 | ro0170 | bx10 | bx11 | bx12 | bx13 | bx14 | bx15 | bx16 | bx17 | lx22 | ax23
      | nx24 | zx25 | ux26 | px27 | fx30 | fx31 | dx32 | dx33 | rx34 | rx35 | ix36 | ix37 | fx40 | rx41 | dx42 | fx44
      | rx45 | no46 | cx47 | sa53 | sa54 | sa55 | sa56 | sa57 | sb63 | sb64 | sb65 | sb66 | sb67 | sx73 | sx74 | sx75
      | sx76 | sx77 =>
    exact decode_enc15 (by decide) fun p hg hi hj hk => by rw [decodeCpu, hg, hi, hj, hk]; rfl
  case lx20 | ax21 | mx43 =>
    exact decode_encJK (by decide) fun p hg hi hjk => by rw [decodeCpu, hg, hi, hjk]; rfl
  case rj010 | rl011 | wl012 | jp02 | zr030 | nz031 | pl032 | ng033 | ir034 | or035 | df036 | id037 | eq04 | ne05
      | ge06 | lt07 | sa50 | sa51 | sa52 | sb60 | sb61 | sb62 | sx70 | sx71 | sx72 =>
    exact decode_enc30 (by decide) fun p q hg hi hj hK =>
      ⟨by rw [isLong, hg, hi]; rfl, by rw [decodeCpu, hg, hi, hj, hK]; rfl⟩
  case esn00 | ujn03 | zjn04 | njn05 | pjn06 | mjn07 | shn10 | lmn11 | lpn12 | scn13 | ldn14 | lcn15 | adn16 | sbn17
      | psn24 | pass25 | pass26 | pass27 | ldd30 | add31 | sbd32 | lmd33 | std34 | rad35 | aod36 | sod37 | ldi40
      | adi41 | sbi42 | lmi43 | sti44 | rai45 | aoi46 | soi47 | ian70 | oan72 | rfn74 | pass75 | pass76 | esn77 =>
    exact decode_enc12 (by decide) fun w hf hd => ⟨by rw [isLongPpu, hf]; rfl, by rw [decodePpu, hf, hd]; rfl⟩
  case ljm01 | rjm02 | ldc20 | adc21 | lpc22 | lmc23 | ldm50 | adm51 | sbm52 | lmm53 | stm54 | ram55 | aom56 | som57
      | fim60 | eim61 | irm62 | nim63 | fom64 | eom65 | orm66 | nom67 | iam71 | oam73 =>
    exact decode_enc24 (by decide) fun w hf hd => ⟨by rw [isLongPpu, hf]; rfl, by rw [decodePpu, hf, hd]; rfl⟩

/-! ### The obligations -/

/-- Settles O3, by the five written forms of an instruction. -/
theorem decodeOfEncodeIsTheInstruction : Obligations.DecodeOfEncodeIsTheInstruction :=
  fun _ _ hwf hnamed => decode_encode hwf hnamed

/-- Settles O4, by running the decoder on the twelve fixed words. -/
theorem writtenWordsDecode : Obligations.WrittenWordsDecode :=
  ⟨rfl, rfl, rfl, rfl, rfl, rfl, rfl, rfl, rfl, rfl, rfl, rfl⟩

end Sys2Proof
end

section
/-!
The instructions that leave the program (40_cpu_monitor_lcm_io.md R150, R154 to R156): 00 and both forms of 013 begin an
exchange jump that stores P + 1.
-/

namespace Sys2Proof.Machine

open Sys2Proof

/-- Settles O28: 00 is the error exit of the machine with Program Range set. -/
theorem errorExitInstruction : Obligations.ErrorExitInstruction := by
  intro s hq hn hready
  exact ⟨exchangeJump (setFlag s .programRange) s.cpu.eea (s.cpu.p + 1) .errorExit, rfl,
    exchangeJump_exchanges (s := setFlag s .programRange) s.cpu.eea (s.cpu.p + 1) (by decide) hq hn hready⟩

/-- The release of every lockout, channel by channel (20_memory.md R107 (4)). -/
theorem releaseLockouts_mux_getElem (s : State) (c : Unit16) :
    (releaseLockouts s).mux[c] = ⟨s.mux[c].inp.release, s.mux[c].out.release⟩ :=
  Vector.getElem_map _ c.isLt

/-- An exchange exit exchanges the machine whose lockouts have been released. -/
theorem exchangeExit_exchanges {s : State} (a : ScmAddr) (hq : Quiet s) (hn : NoParity s) (hready : PkgReady s) :
    Exchanges { s with mux := (releaseLockouts s).mux } (exchangeExit s a) a (s.cpu.p + 1) :=
  exchangeJump_exchanges (s := releaseLockouts s) a (s.cpu.p + 1) (by decide) hq hn hready

/-- Settles O29: both forms are the exchange exit, each to its own address. -/
theorem exchangeExitInstructions : Obligations.ExchangeExitInstructions := by
  intro s j K hq hn hready
  refine ⟨(releaseLockouts s).mux, fun c => ?_, ⟨_, rfl, exchangeExit_exchanges _ hq hn hready⟩,
    _, rfl, exchangeExit_exchanges _ hq hn hready⟩
  rw [releaseLockouts_mux_getElem]
  exact ⟨rfl, rfl⟩

end Sys2Proof.Machine
end

section
/-!
Block copies (20_memory.md R92, R96; 40_cpu_monitor_lcm_io.md R151, R152): the tests and flags of 011 and 012, and the copy that
they begin, one word a step.
-/

namespace Sys2Proof.Machine

open Sys2Proof

/-! ### Flags raised, with whatever slip -/

/-- `s` with flags set and SLIP as given. -/
def flagged (s : State) (flags : List PsdFlag) (slip : Option Nat) : State :=
  { s with cpu := { s.cpu with psd := withFlags s flags, slip := slip } }

theorem flagged_flagged (s : State) (l m : List PsdFlag) (a b : Option Nat) :
    flagged (flagged s l a) m b = flagged s (l ++ m) b := by
  rw [flagged, flagged, flagged, withFlags_append]
  rfl

theorem raiseLate_flagged (s : State) (f : PsdFlag) : ∃ slip, raiseLate s f = flagged s [f] slip :=
  ⟨_, (raiseWith_spec s f _).1⟩

theorem raiseNowIf_flagged (s : State) (b : Bool) (f : PsdFlag) :
    ∃ slip, (if b = true then raiseNow s f else s) = flagged s (if b then [f] else []) slip := by
  cases b
  · exact ⟨s.cpu.slip, rfl⟩
  · exact ⟨_, (raiseWith_spec s f 0).1⟩

/-! ### The three outcomes of 011 and 012 -/

section Outcomes

variable {s : State} {j : Reg} {K : Word18}

/-- A count of zero: no test, no copy. -/
theorem blockCopy_zero (toScm : Bool) (h : blockCount s j K = 0) : blockCopy s j K toScm = s := if_pos h

/-- Inside both fields the copy begins. -/
theorem blockCopy_inRange (toScm : Bool) (h : blockCount s j K ≠ 0) (hl : lcmBlockOut s (blockCount s j K) = false)
    (hs : scmBlockOut s (blockCount s j K) = false) :
    blockCopy s j K toScm = { s with cpu := { s.cpu with
      phase := .copying ⟨toScm, (getX s 0).setWidth 19, getA s 0, blockCount s j K % 1024⟩ } } := by
  simp only [blockCopy, if_neg h, hl, hs, Bool.or_false, Bool.false_eq_true, if_false]

/-- Outside a field the flags of the tests that fire are set, and nothing begins, whichever way the copy would go. -/
theorem blockCopy_outOfRange (h : blockCount s j K ≠ 0)
    (hout : (lcmBlockOut s (blockCount s j K) || scmBlockOut s (blockCount s j K)) = true) :
    ∃ slip, ∀ toScm, blockCopy s j K toScm =
      flagged s ((if lcmBlockOut s (blockCount s j K) then [.lcmBlockRange] else [])
        ++ (if scmBlockOut s (blockCount s j K) then [.scmBlockRange] else [])) slip := by
  obtain ⟨slipL, hlcm⟩ := raiseNowIf_flagged s (lcmBlockOut s (blockCount s j K)) .lcmBlockRange
  obtain ⟨slip, hscm⟩ := raiseNowIf_flagged
    (flagged s (if lcmBlockOut s (blockCount s j K) then [.lcmBlockRange] else []) slipL)
    (scmBlockOut s (blockCount s j K)) .scmBlockRange
  refine ⟨slip, fun toScm => ?_⟩
  rw [← flagged_flagged s _ _ slipL, ← hscm, ← hlcm]
  simp only [blockCopy, if_neg h, hout, if_true]

end Outcomes

/-- Settles O31: both instructions set the same flags. -/
theorem blockCopiesOutOfRange : Obligations.BlockCopiesOutOfRange := by
  intro s j K n lf sf hn hne hlf hsf hout
  subst hn hlf hsf
  obtain ⟨slip, hcopy⟩ := blockCopy_outOfRange (s := s) (j := j) (K := K) hne hout
  exact ⟨_, congrArg Host.Outcome.next (hcopy true), congrArg Host.Outcome.next (hcopy false), rfl, rfl⟩

/-! ### Words moved one by one -/

/-- The first `k` words of `src`, listed by `fromAt`, stand at their places `toAt` in `dst`, which was `old` before. -/
def WordsMoved (src old dst : Mem 60) (fromAt toAt : Nat → Nat) (k : Nat) : Prop :=
  (∀ m, m < k → memRead dst (toAt m) = memRead src (fromAt m))
    ∧ ∀ a, (∀ m, m < k → a ≠ toAt m) → memRead dst a = memRead old a

theorem wordsMoved_zero (src old : Mem 60) (fromAt toAt : Nat → Nat) : WordsMoved src old old fromAt toAt 0 :=
  ⟨fun _ hm => absurd hm (Nat.not_lt_zero _), fun _ _ => rfl⟩

/-- One word more, to a place of its own. -/
theorem WordsMoved.succ {src old dst new : Mem 60} {fromAt toAt : Nat → Nat} {k : Nat}
    (h : WordsMoved src old dst fromAt toAt k) (hapart : ∀ m, m < k → toAt m ≠ toAt k)
    (hword : memRead new (toAt k) = memRead src (fromAt k))
    (hothers : ∀ a, a ≠ toAt k → memRead new a = memRead dst a) : WordsMoved src old new fromAt toAt (k + 1) := by
  obtain ⟨hmoved, hrest⟩ := h
  refine ⟨fun m hm => ?_, fun a ha => ?_⟩
  · rcases Nat.lt_succ_iff_lt_or_eq.1 hm with hlt | rfl
    · rw [hothers _ (hapart m hlt), hmoved m hlt]
    · exact hword
  · rw [hothers a (ha k k.lt_succ_self), hrest a fun m hm => ha m (hm.trans k.lt_succ_self)]

/-- What is left of a copy after `k` of its words. -/
def CopyRun.after (c : CopyRun) (k : Nat) : CopyRun :=
  ⟨c.toScm, c.lcm + BitVec.ofNat 19 k, c.scm + BitVec.ofNat 18 k, c.left - k⟩

theorem after_zero (c : CopyRun) : c.after 0 = c := by
  simp only [CopyRun.after, BitVec.add_zero, Nat.sub_zero]

theorem after_after (c : CopyRun) (k m : Nat) : (c.after k).after m = c.after (k + m) := by
  simp only [CopyRun.after, BitVec.ofNat_add, BitVec.add_assoc, Nat.sub_sub]

/-- The SCM address of word `m` of a copy. -/
def copyScmAt (s : State) (c : CopyRun) (m : Nat) : Nat := (scmAbs s (c.after m).scm).toNat

/-- The LCM address of word `m` of a copy. -/
def copyLcmAt (s : State) (c : CopyRun) (m : Nat) : Nat := (lcmAbs s (c.after m).lcm).toNat

/-- The words of a copy stand at different SCM addresses, with sixteen bits of the address too (20_memory.md R76). -/
theorem copyScmAt_ne (s : State) (c : CopyRun) {m k : Nat} (hm : m < k) (hk : k < 1024) :
    copyScmAt s c m ≠ copyScmAt s c k := by
  simp only [copyScmAt, scmAbs, CopyRun.after, BitVec.toNat_setWidth, BitVec.toNat_add, BitVec.toNat_ofNat]
  omega

theorem copyLcmAt_ne (s : State) (c : CopyRun) {m k : Nat} (hm : m < k) (hk : k < 1024) :
    copyLcmAt s c m ≠ copyLcmAt s c k := by
  simp only [copyLcmAt, lcmAbs, CopyRun.after, BitVec.toNat_add, BitVec.toNat_ofNat]
  omega

/-- All of LCM is there. -/
theorem lcmExists_full {s : State} (h : s.cfg.lcmWords = 524288) (a : LcmAddr) : lcmExists s a = true := by
  have ha := a.isLt
  simp only [lcmExists, h, decide_eq_true_eq]
  omega

/-! ### A copy in progress -/

/-- The copy `c` that began in `s0` has moved `k` words in `s`, and nothing else has changed but the step counter; the record of
stores that could be lost changes only where SCM is written. -/
structure CopiedSome (s0 : State) (c : CopyRun) (s : State) (k : Nat) : Prop where
  phase : s.cpu.phase = .copying (c.after k)
  frame : s = { s0 with
    scm := s.scm, lcm := s.lcm, cpu := { s0.cpu with phase := s.cpu.phase, recent := s.cpu.recent }, tick := s0.tick + k }
  toScm : c.toScm = true → s.lcm = s0.lcm ∧ WordsMoved s0.lcm s0.scm s.scm (copyLcmAt s0 c) (copyScmAt s0 c) k
  toLcm : c.toScm = false → s.scm = s0.scm ∧ s.cpu.recent = s0.cpu.recent
    ∧ WordsMoved s0.scm s0.lcm s.lcm (copyScmAt s0 c) (copyLcmAt s0 c) k

theorem copiedSome_zero {s : State} {c : CopyRun} (h : s.cpu.phase = .copying c) : CopiedSome s c s 0 where
  phase := by rw [h, after_zero]
  frame := rfl
  toScm _ := ⟨rfl, wordsMoved_zero _ _ _ _⟩
  toLcm _ := ⟨rfl, rfl, wordsMoved_zero _ _ _ _⟩

/-- `t` is `s` after the next word of the copy `d`: that word stands where it belongs, the copy has moved on by one, and nothing
else has changed but, where SCM is written, the record of stores that could be lost. -/
structure WordCopied (s : State) (d : CopyRun) (t : State) : Prop where
  frame : t = { s with
    scm := t.scm, lcm := t.lcm, cpu := { s.cpu with phase := .copying (d.after 1), recent := t.cpu.recent } }
  toScm : d.toScm = true → t.lcm = s.lcm
    ∧ memRead t.scm (scmAbs s d.scm).toNat = memRead s.lcm (lcmAbs s d.lcm).toNat
    ∧ ∀ a, a ≠ (scmAbs s d.scm).toNat → memRead t.scm a = memRead s.scm a
  toLcm : d.toScm = false → t.scm = s.scm ∧ t.cpu.recent = s.cpu.recent
    ∧ memRead t.lcm (lcmAbs s d.lcm).toNat = memRead s.scm (scmAbs s d.scm).toNat
    ∧ ∀ a, a ≠ (lcmAbs s d.lcm).toNat → memRead t.lcm a = memRead s.lcm a

section Copy

variable {s0 s t : State} {c d : CopyRun} {k n : Nat}

/-- Where all of both storages is there and no parity error waits, a step of a copy moves its next word. -/
theorem copyStep_wordCopied (hn : NoParity s) (hscm : s.cfg.scmWords = 65536) (hlcm : s.cfg.lcmWords = 524288) :
    WordCopied s d (copyStep s d) := by
  have hread : lcmValue s (lcmAbs s d.lcm) = memRead s.lcm (lcmAbs s d.lcm).toNat :=
    lcmValue_none hn.2 (lcmExists_full hlcm _)
  have hfetch : scmValue s 0 (scmAbs s d.scm) = memRead s.scm (scmAbs s d.scm).toNat :=
    scmValue_none hn.1 (scmExists_full hscm _)
  unfold copyStep
  dsimp only
  cases hdir : d.toScm
  · obtain ⟨hframe, hothers, hword⟩ := lcmPut_spec s (lcmAbs s d.lcm) (memRead s.scm (scmAbs s d.scm).toNat)
    rw [if_pos (lcmExists_full hlcm _)] at hword
    rw [if_neg Bool.false_ne_true, copyToLcm_spec d.lcm d.scm hn, hfetch, hframe]
    exact ⟨by rw [← hdir]; rfl, fun h => absurd (hdir.symm.trans h) Bool.false_ne_true, fun _ => ⟨rfl, rfl, hword, hothers⟩⟩
  · have hstore : copyToScm s d.lcm d.scm = scmStore s (scmAbs s d.scm) (memRead s.lcm (lcmAbs s d.lcm).toNat) := by
      rw [copyToScm, lcmDetect_none _ hn.2, hread]
    obtain ⟨hframe, hword, hothers, -⟩ :=
      scmStore_spec (memRead s.lcm (lcmAbs s d.lcm).toNat) hn.1 (scmExists_full hscm (scmAbs s d.scm))
    rw [if_pos rfl, hstore, hframe]
    exact ⟨by rw [← hdir]; rfl, fun _ => ⟨rfl, hword, hothers⟩, fun h => absurd (h.symm.trans hdir) Bool.false_ne_true⟩

theorem CopiedSome.noParity (h : CopiedSome s0 c s k) (hn : NoParity s0) : NoParity s := by
  rw [h.frame]
  exact hn

theorem CopiedSome.quiet (h : CopiedSome s0 c s k) (hq : Quiet s0) : Quiet s := by
  rw [h.frame]
  exact hq

theorem CopiedSome.cfg (h : CopiedSome s0 c s k) : s.cfg = s0.cfg := by rw [h.frame]

/-- A copy changes neither field, so its addresses mean the same throughout. -/
theorem CopiedSome.scmAbs_eq (h : CopiedSome s0 c s k) (r : Word18) : scmAbs s r = scmAbs s0 r := by
  rw [h.frame]
  rfl

theorem CopiedSome.lcmAbs_eq (h : CopiedSome s0 c s k) (r : BitVec 19) : lcmAbs s r = lcmAbs s0 r := by
  rw [h.frame]
  rfl

/-- One word more. -/
theorem CopiedSome.next (h : CopiedSome s0 c s k) (hw : WordCopied s (c.after k) t) (hk : k < 1024) :
    CopiedSome s0 c (ticked s t) (k + 1) := by
  obtain ⟨hframe, hscm, hlcm⟩ := hw
  rw [after_after] at hframe
  rw [h.scmAbs_eq, h.lcmAbs_eq] at hscm hlcm
  refine ⟨by rw [hframe]; rfl, ?_, fun hdir => ?_, fun hdir => ?_⟩
  · rw [hframe, h.frame]
    rfl
  · obtain ⟨hsame, hmoved⟩ := h.toScm hdir
    obtain ⟨hsame', hword, hothers⟩ := hscm hdir
    rw [hsame] at hsame' hword
    exact ⟨hsame', hmoved.succ (fun m hm => copyScmAt_ne s0 c hm hk) hword hothers⟩
  · obtain ⟨hsame, hrecent, hmoved⟩ := h.toLcm hdir
    obtain ⟨hsame', hrecent', hword, hothers⟩ := hlcm hdir
    rw [hsame] at hsame' hword
    exact ⟨hsame', hrecent'.trans hrecent, hmoved.succ (fun m hm => copyLcmAt_ne s0 c hm hk) hword hothers⟩

/-- While words are left, each step of the quiet machine moves the next one. -/
theorem CopiedSome.step (h : CopiedSome s0 c s k) (hq : Quiet s0) (hn : NoParity s0) (hscm : s0.cfg.scmWords = 65536)
    (hlcm : s0.cfg.lcmWords = 524288) (hk : k < c.left) (hmax : c.left ≤ 1024) :
    ∃ t, step s = .next t ∧ CopiedSome s0 c t (k + 1) := by
  have hquiet := h.quiet hq
  have hleft : (c.after k).left ≠ 0 := Nat.sub_ne_zero_of_lt hk
  have hword : WordCopied s (c.after k) (copyStep s (c.after k)) :=
    copyStep_wordCopied (h.noParity hn) (by rw [h.cfg, hscm]) (by rw [h.cfg, hlcm])
  have hidle : LevelsIdle (copyStep s (c.after k)) := by
    rw [hword.frame]
    exact hquiet.1
  have htick : (copyStep s (c.after k)).tick = s.tick := by rw [hword.frame]
  refine ⟨ticked s (copyStep s (c.after k)), ?_, h.next hword (hk.trans_le hmax)⟩
  rw [step_copying hquiet h.phase, copyTurn, if_neg hleft, endStep_idle hidle, ticked, ticked, htick]

/-- So the words left are moved in as many steps. -/
theorem CopiedSome.complete (h : CopiedSome s0 c s k) (hq : Quiet s0) (hn : NoParity s0) (hscm : s0.cfg.scmWords = 65536)
    (hlcm : s0.cfg.lcmWords = 524288) (hmax : c.left ≤ 1024) (hk : k + n = c.left) :
    ∃ t, steps n s = .next t ∧ CopiedSome s0 c t c.left := by
  induction n generalizing s k with
  | zero =>
    obtain rfl : k = c.left := hk
    exact ⟨s, rfl, h⟩
  | succ n ih =>
    obtain ⟨t, ht, hnext⟩ := h.step hq hn hscm hlcm (by omega) hmax
    obtain ⟨u, hu, hall⟩ := ih hnext (by omega)
    refine ⟨u, ?_, hall⟩
    rw [steps, ht]
    exact hu

end Copy

/-- Settles O30, by the outcomes of the tests, by induction on the words left, and by the turn of a copy that has none. -/
theorem blockCopiesMoveTheWords : Obligations.BlockCopiesMoveTheWords := by
  refine ⟨fun s j K n hcount => ⟨fun hzero => ?_, fun hne hl hs => ?_⟩, fun s c hq hn hscm hlcm hphase hmax => ?_,
    fun s c hq hphase hleft => ?_⟩
  · have hnone := fun toScm => blockCopy_zero (s := s) (j := j) (K := K) toScm (hcount.symm.trans hzero)
    exact ⟨congrArg Host.Outcome.next (hnone true), congrArg Host.Outcome.next (hnone false)⟩
  · subst hcount
    have hbegins := fun toScm => blockCopy_inRange (s := s) (j := j) (K := K) toScm hne
      (decide_eq_false (Nat.not_lt.2 hl)) (decide_eq_false (Nat.not_lt.2 hs))
    exact ⟨congrArg Host.Outcome.next (hbegins true), congrArg Host.Outcome.next (hbegins false)⟩
  · obtain ⟨t, ht, hall⟩ := (copiedSome_zero hphase).complete hq hn hscm hlcm hmax (Nat.zero_add _)
    have hdone : c.left - c.left = 0 := Nat.sub_self _
    refine ⟨t, ht, ?_, hall.frame, hall.toScm, hall.toLcm⟩
    rw [hall.phase, CopyRun.after, hdone]
  · rw [step_copying hq hphase, copyTurn, if_pos hleft]

end Sys2Proof.Machine
end

section
/-!
Single words of LCM (40_cpu_monitor_lcm_io.md R157, R158): the read is made in range or not, the write in range alone.
-/

namespace Sys2Proof.Machine

open Sys2Proof

section LcmWord

variable {s : State} {j : Reg} {r : BitVec 19}

/-- The read of a word that exists, where no parity error waits: Xj gets it, and nothing else happens. -/
theorem lcmRead_delivers (hn : NoParity s) (hx : lcmExists s (lcmAbs s r) = true) :
    lcmDetect (setX s j (lcmValue s (lcmAbs s r))) (lcmAbs s r) = setX s j (memRead s.lcm (lcmAbs s r).toNat) := by
  rw [lcmDetect_none, lcmValue_none hn.2 hx]
  exact hn.2

theorem readLcm_inRange (hn : NoParity s) (hx : lcmExists s (lcmAbs s r) = true) (hr : r < s.cpu.fll) :
    readLcm s j r = setX s j (memRead s.lcm (lcmAbs s r).toNat) := by
  rw [readLcm, if_pos hr]
  exact lcmRead_delivers hn hx

/-- Out of range the flag is set first, and the read still made. -/
theorem readLcm_outOfRange (hn : NoParity s) (hx : lcmExists s (lcmAbs s r) = true) (hr : s.cpu.fll ≤ r) :
    ∃ slip, readLcm s j r = setX (flagged s [.lcmDirectRange] slip) j (memRead s.lcm (lcmAbs s r).toNat) := by
  obtain ⟨slip, hraise⟩ := raiseLate_flagged s .lcmDirectRange
  refine ⟨slip, ?_⟩
  rw [readLcm, if_neg (BitVec.not_lt.2 hr), hraise]
  exact lcmRead_delivers (s := flagged s [.lcmDirectRange] slip) hn hx

theorem writeLcm_inRange (hr : r < s.cpu.fll) : writeLcm s j r = lcmPut s (lcmAbs s r) (getX s j) := if_pos hr

theorem writeLcm_outOfRange (hr : s.cpu.fll ≤ r) :
    ∃ slip, writeLcm s j r = flagged s [.lcmDirectRange] slip := by
  rw [writeLcm, if_neg (BitVec.not_lt.2 hr)]
  exact raiseLate_flagged s .lcmDirectRange

end LcmWord

/-- Settles O32: out of range the flag comes before the read and in place of the write. -/
theorem lcmWordReferences : Obligations.LcmWordReferences := by
  refine ⟨fun s j k r hn hr hout hx => ?_, fun s j k r hn hr hin hx => ?_⟩ <;> subst hr
  · obtain ⟨slip, hread⟩ := readLcm_outOfRange (j := j) hn hx hout
    obtain ⟨slip', hwrite⟩ := writeLcm_outOfRange (j := j) hout
    exact ⟨⟨_, congrArg Host.Outcome.next hread, rfl,
        fun q hq => getX_setX_other (flagged s [.lcmDirectRange] slip) j q _ hq, getX_setX_same _ _ _, rfl⟩,
      _, congrArg Host.Outcome.next hwrite, rfl, rfl⟩
  · obtain ⟨hframe, hothers, hword⟩ := lcmPut_spec s (lcmAbs s ((getX s k).setWidth 19)) (getX s j)
    rw [if_pos hx] at hword
    exact ⟨⟨_, congrArg Host.Outcome.next (readLcm_inRange hn hx hin), onlyX_setX _ _ _, getX_setX_same _ _ _⟩,
      _, congrArg Host.Outcome.next (writeLcm_inRange hin), hframe, hword, hothers⟩

end Sys2Proof.Machine
end

section
/-!
The channel instructions (40_cpu_monitor_lcm_io.md R153, R159 to R162): 0160 and 0170 reset one side of a channel, 016 and 017
read its status.
-/

namespace Sys2Proof.Machine

open Sys2Proof

section Channel

variable {s : State} {k : Reg} {c : Unit16}

/-- The channel number, as the statements name it. -/
theorem channelOf_eq (h : c.val = (getB s k).toNat % 16) : channelOf s k = c := Fin.ext h.symm

theorem channelPresent_iff : channelPresent s c = true ↔ c ≠ 0 ∧ s.cfg.muxPresent[c] = true := by
  rw [channelPresent, Bool.and_eq_true, bne_iff_ne]

theorem channelPresent_false_iff : channelPresent s c = false ↔ c = 0 ∨ s.cfg.muxPresent[c] = false := by
  rw [← Bool.not_eq_true, channelPresent_iff, not_and_or, not_not, Bool.not_eq_true]

/-- A reset acts in Monitor Mode alone, and on a channel that exists and is not channel 0. -/
theorem resetActs_false_iff :
    resetActs s c = false ↔ flag s .monitorMode = false ∨ c = 0 ∨ s.cfg.muxPresent[c] = false := by
  rw [resetActs, Bool.and_eq_false_iff, channelPresent_false_iff]

theorem exec_ri0160 (h : c.val = (getB s k).toNat % 16) :
    exec (.ri0160 k) s = .next (if resetActs s c then didReset (resetInput s c) .input else s) := by
  rw [← channelOf_eq h]
  rfl

theorem exec_ro0170 (h : c.val = (getB s k).toNat % 16) :
    exec (.ro0170 k) s = .next (if resetActs s c then didReset (resetOutput s c) .output else s) := by
  rw [← channelOf_eq h]
  rfl

/-! ### What the status reads as -/

/-- The buffer address of a side, as the statements write it. -/
theorem addrStatus_eq (s : State) (b : Buffer) (a : BitVec 8) :
    addrStatus s b a = if s.cfg.statusAbsolute = true then BitVec.ofNat 18 (b.first + a.toNat) else 0#10 ++ a := by
  have hoffset : a.setWidth 18 = 0#10 ++ a := BitVec.setWidth_eq_append (by decide)
  rw [addrStatus, hoffset]

theorem inputStatus_clock (hreset : s.cpu.afterReset ≠ some .input) :
    inputStatus s 0 = BitVec.ofBool s.rtcFlag ++ s.clk := by
  rw [inputStatus, if_neg hreset, if_pos rfl]

theorem inputStatus_present (hreset : s.cpu.afterReset ≠ some .input) (h0 : c ≠ 0) (hp : s.cfg.muxPresent[c] = true) :
    inputStatus s c = addrStatus s s.cfg.inBuf[c] s.mux[c].inp.bufAddr := by
  rw [inputStatus, if_neg hreset, if_neg h0, if_pos (channelPresent_iff.2 ⟨h0, hp⟩)]

theorem inputStatus_absent (hreset : s.cpu.afterReset ≠ some .input) (h0 : c ≠ 0) (hp : s.cfg.muxPresent[c] = false) :
    inputStatus s c = 0o400000 := by
  rw [inputStatus, if_neg hreset, if_neg h0, channelPresent_false_iff.2 (.inr hp), if_neg Bool.false_ne_true]

theorem outputStatus_present (hreset : s.cpu.afterReset ≠ some .output) (h0 : c ≠ 0) (hp : s.cfg.muxPresent[c] = true) :
    outputStatus s c = addrStatus s s.cfg.outBuf[c] s.mux[c].out.bufAddr := by
  rw [outputStatus, if_neg hreset, if_pos (channelPresent_iff.2 ⟨h0, hp⟩)]

theorem outputStatus_absent (hreset : s.cpu.afterReset ≠ some .output) (h : c = 0 ∨ s.cfg.muxPresent[c] = false) :
    outputStatus s c = 0 := by
  rw [outputStatus, if_neg hreset, channelPresent_false_iff.2 h, if_neg Bool.false_ne_true]

theorem exec_ib016 (j : Reg) (h : c.val = (getB s k).toNat % 16) :
    exec (.ib016 j k) s = .next (setB s j (inputStatus s c)) := by
  rw [← channelOf_eq h]
  rfl

theorem exec_ob017 (j : Reg) (h : c.val = (getB s k).toNat % 16) :
    exec (.ob017 j k) s = .next (setB s j (outputStatus s c)) := by
  rw [← channelOf_eq h]
  rfl

end Channel

/-- Settles O37: a reset acts in Monitor Mode on a present channel, and is a Pass elsewhere. -/
theorem channelResetsNeedMonitorMode : Obligations.ChannelResetsNeedMonitorMode := by
  refine ⟨fun s k c hc hpass => ?_, fun s k c hc hmode h0 hp => ?_⟩ <;> rw [exec_ri0160 hc, exec_ro0170 hc]
  · rw [resetActs_false_iff.2 hpass]
    exact ⟨rfl, rfl⟩
  · have hacts : resetActs s c = true := by rw [resetActs, hmode, channelPresent_iff.2 ⟨h0, hp⟩, Bool.and_self]
    rw [hacts]
    exact ⟨rfl, rfl⟩

/-- Settles O38: each instruction sets Bj to the status, which is read case by case. -/
theorem channelStatusReads : Obligations.ChannelStatusReads := by
  intro s j k c hc
  obtain ⟨honlyIn, hin⟩ := setB_spec s j (inputStatus s c)
  obtain ⟨honlyOut, hout⟩ := setB_spec s j (outputStatus s c)
  refine ⟨⟨_, exec_ib016 j hc, honlyIn, fun hj hreset => ?_⟩, ⟨_, exec_ob017 j hc, honlyOut, fun hj hreset => ?_⟩⟩
  · rw [hin, if_neg hj]
    refine ⟨fun h0 => ?_, fun h0 hp => ?_, inputStatus_absent hreset⟩
    · rw [h0, inputStatus_clock hreset]
    · rw [inputStatus_present hreset h0 hp, addrStatus_eq]
  · rw [hout, if_neg hj]
    refine ⟨fun h0 hp => ?_, outputStatus_absent hreset⟩
    rw [outputStatus_present hreset h0 hp, addrStatus_eq]

end Sys2Proof.Machine
end

section
/-!
The branches (41_cpu_branch.md R172 to R185): 030 to 037 and 04 to 07 are one conditional jump each, and the condition that the
model computes is that of the spec.
-/

namespace Sys2Proof.Machine

open Sys2Proof

/-! ### A jump or none -/

theorem onlyFlow_refl (s : State) : OnlyFlow s s := ⟨rfl, fun _ => rfl, fun _ => rfl, fun _ _ => rfl⟩

theorem jumpTo_onlyFlow (s : State) (K : Word18) : OnlyFlow s (jumpTo s K) :=
  ⟨rfl, fun _ => rfl, fun _ => rfl, fun _ _ => rfl⟩

theorem jumpIf_onlyFlow (s : State) (b : Bool) (K : Word18) : OnlyFlow s (jumpIf s b K) := by
  cases b
  · exact onlyFlow_refl s
  · exact jumpTo_onlyFlow s K

/-! ### The tests on X (R173 to R180) -/

theorem xZero_iff (x : Word60) : xZero x = true ↔ x = 0 ∨ x = BitVec.allOnes 60 := by
  simp only [xZero, Bool.or_eq_true, beq_iff_eq]

/-- Bits 59 to 48, as the statements write them. -/
theorem fpTop_eq (x : Word60) : fpTop x = (x.extractLsb' 48 12).toNat := by
  have hx := x.isLt
  rw [fpTop, BitVec.extractLsb'_toNat, Nat.shiftRight_eq_div_pow, Nat.mod_eq_of_lt (by omega)]

/-- A test of those bits against a number of twelve bits. -/
theorem fpTop_beq_iff (x : Word60) (v : BitVec 12) : (fpTop x == v.toNat) = true ↔ x.extractLsb' 48 12 = v := by
  rw [fpTop_eq, beq_iff_eq, BitVec.toNat_inj]

theorem xIndefinite_iff (x : Word60) : xIndefinite x = true ↔ x.extractLsb' 48 12 ∈ [0o1777#12, 0o6000#12] := by
  rw [List.mem_pair, ← fpTop_beq_iff, ← fpTop_beq_iff]
  exact Bool.or_eq_true_iff

theorem xOutOfRange_iff (x : Word60) :
    xOutOfRange x = true ↔ x.extractLsb' 48 12 ∈ [0o3777#12, 0o4000#12, 0o1777#12, 0o6000#12] := by
  have hforms : xOutOfRange x = (fpTop x == (0o3777#12).toNat || (fpTop x == (0o4000#12).toNat || xIndefinite x)) := by
    simp only [xOutOfRange, xIndefinite, Bool.or_assoc]
    rfl
  rw [hforms, Bool.or_eq_true, Bool.or_eq_true, fpTop_beq_iff, fpTop_beq_iff, xIndefinite_iff]
  simp only [List.mem_cons]

/-! ### The ordered test on B (R185) -/

/-- The sign bit of a ones complement number: its value is negative, or it is negative zero. -/
theorem msb_iff_ocVal {w : Nat} (hw : 0 < w) (v : BitVec w) : v.msb = true ↔ ocVal v < 0 ∨ v = BitVec.allOnes w := by
  have hv := v.isLt
  have hpow : 2 ^ w = 2 * 2 ^ (w - 1) := (mul_pow_sub_one hw.ne' 2).symm
  rw [eq_allOnes_iff_toNat, ocVal_eq, BitVec.msb_eq_true_iff_two_mul_ge]
  split_ifs <;> omega

/-- The extension by one sign bit, as unsigned numbers. -/
theorem toNat_signExtend19 (v : Word18) :
    (v.signExtend 19).toNat = if 2 ^ 18 ≤ 2 * v.toNat then v.toNat + 2 ^ 18 else v.toNat := by
  have hv := v.isLt
  rw [BitVec.toNat_signExtend, BitVec.toNat_setWidth, Nat.mod_eq_of_lt (by omega)]
  simp only [BitVec.msb_eq_true_iff_two_mul_ge, ge_iff_le]
  split_ifs <;> omega

theorem ocVal_signExtend19 (v : Word18) : ocVal (v.signExtend 19) = ocVal v := by
  have hv := v.isLt
  rw [ocVal_eq, ocVal_eq, toNat_signExtend19]
  split_ifs <;> omega

theorem signExtend19_eq_allOnes_iff (v : Word18) : v.signExtend 19 = BitVec.allOnes 19 ↔ v = BitVec.allOnes 18 := by
  have hv := v.isLt
  rw [eq_allOnes_iff_toNat, eq_allOnes_iff_toNat, toNat_signExtend19]
  split_ifs <;> omega

theorem signExtend19_eq_zero_iff (v : Word18) : v.signExtend 19 = 0 ↔ v = 0 := by
  rw [← BitVec.toNat_inj, ← BitVec.toNat_inj, toNat_signExtend19]
  simp only [BitVec.ofNat_eq_ofNat, BitVec.toNat_ofNat, Nat.zero_mod]
  split <;> omega

/-- In 19 bits the difference is exact, so its sign bit orders the values; it is negative zero only for negative zero less
positive zero. -/
theorem ocGe_iff (a b : Word18) :
    ocGe a b = true ↔ ocVal b ≤ ocVal a ∧ ¬ (a = BitVec.allOnes 18 ∧ b = 0) := by
  have hfit : (ocVal (a.signExtend 19) - ocVal (b.signExtend 19)).natAbs < 2 ^ (19 - 1) := by
    have ha := natAbs_ocVal_lt (by decide) a
    have hb := natAbs_ocVal_lt (by decide) b
    rw [ocVal_signExtend19, ocVal_signExtend19]
    omega
  have hsign : (ocSub (a.signExtend 19) (b.signExtend 19)).msb = true
      ↔ ocVal a - ocVal b < 0 ∨ a = BitVec.allOnes 18 ∧ b = 0 := by
    rw [msb_iff_ocVal (by decide), ocVal_ocSub (by decide) hfit, ocSub_eq_allOnes_iff, ocVal_signExtend19, ocVal_signExtend19,
      signExtend19_eq_allOnes_iff, signExtend19_eq_zero_iff]
  rw [ocGe, Bool.not_eq_true', ← Bool.not_eq_true, hsign, not_or, sub_neg, not_lt]

/-! ### The instructions -/

/-- A test negated decides the opposite. -/
theorem not_test_iff {b : Bool} {c : Prop} (h : b = true ↔ c) : (!b) = true ↔ ¬ c := by
  rw [Bool.not_eq_true', ← Bool.not_eq_true, h]

/-- Each conditional branch is a jump to K under a test that computes its condition. -/
theorem exec_of_branchesIf {s : State} {ins : Instr} {c : Prop} {K : Word18} (h : BranchesIf s ins c K) :
    ∃ b : Bool, exec ins s = .next (jumpIf s b K) ∧ (b = true ↔ c) := by
  cases h with
  | zr030 j => exact ⟨_, rfl, xZero_iff _⟩
  | nz031 j => exact ⟨_, rfl, (not_test_iff (xZero_iff _)).trans not_or⟩
  | pl032 j => exact ⟨_, rfl, (not_test_iff Iff.rfl).trans (iff_of_eq (Bool.not_eq_true _))⟩
  | ng033 j => exact ⟨_, rfl, Iff.rfl⟩
  | ir034 j => exact ⟨_, rfl, not_test_iff (xOutOfRange_iff _)⟩
  | or035 j => exact ⟨_, rfl, xOutOfRange_iff _⟩
  | df036 j => exact ⟨_, rfl, not_test_iff (xIndefinite_iff _)⟩
  | id037 j => exact ⟨_, rfl, xIndefinite_iff _⟩
  | eq04 i j => exact ⟨_, rfl, beq_iff_eq⟩
  | ne05 i j => exact ⟨_, rfl, bne_iff_ne⟩
  | ge06 i j => exact ⟨_, rfl, ocGe_iff _ _⟩
  | lt07 i j => exact ⟨_, rfl, (not_test_iff (ocGe_iff _ _)).trans (by rw [not_and_or, not_not, not_le])⟩

/-- Settles O23: every one of them is a jump, taken as its test says, and 02 is a jump. -/
theorem branchesChooseTheNextWord : Obligations.BranchesChooseTheNextWord := by
  refine ⟨fun s ins c K h => ?_, fun s i K => ⟨_, rfl, jumpTo_onlyFlow s _, rfl⟩⟩
  obtain ⟨b, hexec, hb⟩ := exec_of_branchesIf h
  refine ⟨_, hexec, jumpIf_onlyFlow s b K, fun hc => ?_, fun hc => ?_⟩
  · rw [hb.2 hc]
    rfl
  · rw [Bool.eq_false_iff.2 (mt hb.1 hc)]
    rfl

end Sys2Proof.Machine
end

section
/-!
The Return Jump (41_cpu_branch.md R171): the store of the exit word (60_exceptions.md R423), and then the tests that a word made
current meets too, here on K (R431).
-/

namespace Sys2Proof.Machine

open Sys2Proof

/-- The exit word, part by part. -/
theorem exitWord_eq (ret : Word18) : exitWord ret = 0o0400#12 ++ ret ++ 0#30 := by
  have hret := ret.isLt
  have hplace : ret.toNat <<< 30 < 2 ^ 60 := by
    rw [Nat.shiftLeft_eq]
    omega
  refine BitVec.eq_of_toNat_eq ?_
  rw [BitVec.toNat_append, BitVec.toNat_append, Nat.shiftLeft_or_distrib, BitVec.toNat_ofNat 0 30, Nat.zero_mod, Nat.or_zero,
    exitWord, BitVec.toNat_or, BitVec.toNat_shiftLeft, BitVec.toNat_shiftLeft, BitVec.toNat_setWidth,
    Nat.mod_eq_of_lt (by omega : ret.toNat < 2 ^ 60), Nat.mod_eq_of_lt hplace]
  exact congrArg (· ||| ret.toNat <<< 30) (by decide)

/-- A store where no parity error waits: its word, and the record of stores to it. -/
theorem scmStore_none {s : State} (a : ScmAddr) (v : Word60) (h : s.scmBad = []) :
    scmStore s a v = { s with
      scm := (scmPut s a v).scm, cpu := { s.cpu with recent := s.cpu.recent.map (settleRef a) } } := by
  have hput := (scmPut_spec s a v).1
  have hbad : (scmForget (scmPut s a v) a).scmBad = [] := by rw [scmForget_scmBad, hput]; exact h
  rw [scmStore, scmDetect_none a hbad, hput]
  rfl

/-- The machine after the store of a Return Jump: the exit word stands at K, unless K is out of range or the range flag stops
stores. -/
def returnStored (s : State) (K : Word18) : State :=
  if s.cpu.fls ≤ K ∨ flag s .scmDirectRange = true then s else scmStore s (scmAbs s K) (exitWord (nextWord s))

/-- The store changes the word at K alone, and the record of stores. -/
structure ReturnStored (s : State) (K : Word18) (v : State) : Prop where
  frame : v = { s with scm := v.scm, cpu := { s.cpu with recent := v.cpu.recent } }
  others : ∀ n, n ≠ (scmAbs s K).toNat → memRead v.scm n = memRead s.scm n
  word : K < s.cpu.fls → scmExists s (scmAbs s K) = true → flag s .scmDirectRange = false →
    memRead v.scm (scmAbs s K).toNat = 0o0400#12 ++ (s.cpu.p + 1) ++ 0#30
  blocked : s.cpu.fls ≤ K ∨ flag s .scmDirectRange = true → v = s

theorem returnStored_spec {s : State} (K : Word18) (hn : NoParity s) : ReturnStored s K (returnStored s K) := by
  by_cases hstop : s.cpu.fls ≤ K ∨ flag s .scmDirectRange = true
  · rw [returnStored, if_pos hstop]
    refine ⟨rfl, fun _ _ => rfl, fun hK _ hflag => ?_, fun _ => rfl⟩
    rcases hstop with hout | hset
    · exact absurd hout (BitVec.not_le.2 hK)
    · rw [hflag] at hset
      cases hset
  · obtain ⟨-, hothers, hword⟩ := scmPut_spec s (scmAbs s K) (exitWord (nextWord s))
    rw [returnStored, if_neg hstop, scmStore_none _ _ hn.1]
    refine ⟨rfl, hothers, fun _ hexists _ => ?_, fun h => absurd h hstop⟩
    rw [if_pos hexists] at hword
    exact hword.trans (exitWord_eq _)

/-- The instruction word stack void (10_state.md R27). -/
def voidStack (s : State) : State := { s with cpu := { s.cpu with iws := [] } }

section ReturnJump

variable {s v : State} {K : Word18}

theorem ReturnStored.fls (h : ReturnStored s K v) : v.cpu.fls = s.cpu.fls := by rw [h.frame]

theorem ReturnStored.bpa (h : ReturnStored s K v) : v.cpu.bpa = s.cpu.bpa := by rw [h.frame]

theorem ReturnStored.psd (h : ReturnStored s K v) : v.cpu.psd = s.cpu.psd := by rw [h.frame]

/-- The same tests fire as before the store. -/
theorem ReturnStored.addressFault (h : ReturnStored s K v) : addressFault v K = addressFault s K := by
  rw [Machine.addressFault, Machine.addressFault, h.fls, h.bpa]

theorem ReturnStored.withFlags_firing (h : ReturnStored s K v) : withFlags v (firing v K) = withFlags s (firing s K) := by
  rw [withFlags, withFlags, firing, firing, h.fls, h.bpa, h.psd]

/-- What the tests change after the store, they and the store change together. -/
theorem ReturnStored.tested (h : ReturnStored s K v) (t : State) : tested v t = tested s t := by
  rw [h.frame]
  rfl

/-- After the store the tests on K are those of a word that is made current (10_state.md R30). -/
theorem returnJump_eq (h : ReturnStored s K (returnStored s K)) :
    returnJump s K = if Machine.addressFault s K = true
      then errorExit (voidStack (addressTests (returnStored s K) K)) (K + 1)
      else jumpTo (voidStack (addressTests (returnStored s K) K)) (K + 1) := by
  have hrange : returnStore s K =
      if (returnStored s K).cpu.fls ≤ K then rangeNow (returnStored s K) else returnStored s K := by
    rw [h.fls, returnStore, returnStored]
    by_cases hK : s.cpu.fls ≤ K
    · rw [if_pos hK, if_pos hK, if_pos (.inl hK)]
    · rw [if_neg hK, if_neg hK]
      simp only [hK, false_or]
  rw [returnJump, hrange, addressTests, testRange, h.bpa]
  rfl

end ReturnJump

/-- Settles O24: no test fires, so the store and the void stack are all that happens before the jump. -/
theorem returnJumpStoresTheExitWord : Obligations.ReturnJumpStoresTheExitWord := by
  intro s K hn hK h0 hbpa
  have hstored := returnStored_spec K hn
  have hfault : addressFault s K = false := by
    rw [← Bool.not_eq_true, addressFault_iff]
    exact not_or.2 ⟨BitVec.not_le.2 hK, not_or.2 ⟨h0, hbpa⟩⟩
  have hjump : returnJump s K = jumpTo (voidStack (returnStored s K)) (K + 1) := by
    rw [returnJump_eq hstored, hfault, if_neg Bool.false_ne_true,
      addressTests_of_not_fault (hstored.addressFault.trans hfault)]
  exact ⟨_, congrArg Host.Outcome.next hjump, rfl, congrArg (fun v => jumpTo (voidStack v) (K + 1)) hstored.frame,
    hstored.others, hstored.word hK, fun hflag => congrArg (·.scm) (hstored.blocked (.inr hflag))⟩

/-- Settles O25: the store, the tests, and the error exit that those on K take. -/
theorem returnJumpErrorExits : Obligations.ReturnJumpErrorExits := by
  intro s K hq hn hready hfires
  have hstored := returnStored_spec K hn
  have htests := addressTests_spec (returnStored s K) K
  have hframe := htests.frame.trans (hstored.tested _)
  have hjump : returnJump s K = errorExit (voidStack (addressTests (returnStored s K) K)) (K + 1) := by
    rw [returnJump_eq hstored, if_pos (addressFault_iff.2 hfires)]
  generalize addressTests (returnStored s K) K = t at htests hframe hjump
  refine ⟨_, voidStack t, congrArg Host.Outcome.next hjump, ?_, congrArg voidStack hframe,
    htests.psd.trans hstored.withFlags_firing, fun hout => ?_, fun hin => ?_⟩
  · rw [hframe]
    exact exchangeJump_exchanges s.cpu.eea (K + 1) (by decide) hq hn hready
  · have heffect := htests.range (hstored.fls.trans_le hout)
    rw [hstored.blocked (.inl hout)] at heffect
    exact heffect
  · have hscm : (voidStack t).scm = (returnStored s K).scm := (htests.inField (hin.trans_eq hstored.fls.symm)).1
    rw [hscm]
    refine ⟨hstored.others, ?_⟩
    by_cases hflag : flag s .scmDirectRange = true
    · rw [if_pos hflag, hstored.blocked (.inr hflag)]
    · rw [if_neg hflag]
      exact hstored.word hin (scmExists_full hready.2.1 _) (Bool.eq_false_iff.2 hflag)

end Sys2Proof.Machine
end

section
/-!
The Boolean unit and the shifts (42_cpu_boolean_shift_normalize.md R190 to R204), bit by bit.
-/

namespace Sys2Proof.Machine

open Sys2Proof

variable {n : Nat}

/-! ### The Boolean unit -/

/-- A bit of a complement (R194). -/
theorem getLsbD_not60 (v : Word60) (hn : n < 60) : (~~~v).getLsbD n = !v.getLsbD n := by
  rw [BitVec.getLsbD_not, decide_eq_true hn, Bool.true_and]

/-- Settles O11: each of the eight delivers a word of bitwise operations. -/
theorem booleanInstructionsBitByBit : Obligations.BooleanInstructionsBitByBit := by
  intro s i j k
  refine ⟨⟨_, rfl, onlyX_setX s i _, getX_setX_same s i _⟩, ⟨_, rfl, onlyX_setX s i _, fun n => ?product⟩,
    ⟨_, rfl, onlyX_setX s i _, fun n => ?sum⟩, ⟨_, rfl, onlyX_setX s i _, fun n => ?difference⟩,
    ⟨_, rfl, onlyX_setX s i _, fun n hn => ?complement⟩, ⟨_, rfl, onlyX_setX s i _, fun n hn => ?productNot⟩,
    ⟨_, rfl, onlyX_setX s i _, fun n hn => ?sumNot⟩, ⟨_, rfl, onlyX_setX s i _, fun n hn => ?differenceNot⟩⟩
  case product => rw [getX_setX_same, BitVec.getLsbD_and]
  case sum => rw [getX_setX_same, BitVec.getLsbD_or]
  case difference => rw [getX_setX_same, BitVec.getLsbD_xor, Bool.bne_eq_xor]
  case complement => rw [getX_setX_same, getLsbD_not60 _ hn]
  case productNot => rw [getX_setX_same, BitVec.getLsbD_and, getLsbD_not60 _ hn]
  case sumNot => rw [getX_setX_same, BitVec.getLsbD_or, getLsbD_not60 _ hn]
  case differenceNot =>
    rw [getX_setX_same, BitVec.getLsbD_xor, getLsbD_not60 _ hn, Bool.xor_not, ← Bool.bne_eq_xor, bne, Bool.not_not]

/-! ### Shifts and masks -/

/-- A left shift is circular: every bit goes `c` places up, modulo 60 (R200). -/
theorem getLsbD_rotl (v : Word60) (c : Nat) (hn : n < 60) : (rotl v c).getLsbD ((n + c) % 60) = v.getLsbD n := by
  have hc : c % 60 < 60 := Nat.mod_lt c (by decide)
  rw [rotl, BitVec.getLsbD_rotateLeft, Nat.mod_mod, Nat.add_mod, Nat.mod_eq_of_lt hn]
  by_cases hwrap : 60 ≤ n + c % 60
  · have hplace : (n + c % 60) % 60 = n + c % 60 - 60 := by omega
    have hsource : 60 - c % 60 + (n + c % 60 - 60) = n := by omega
    have hlow : n + c % 60 - 60 < c % 60 := by omega
    rw [hplace, hsource, decide_eq_true hlow, cond_true]
  · have hplace : (n + c % 60) % 60 = n + c % 60 := by omega
    have hhigh : ¬ n + c % 60 < c % 60 := by omega
    rw [hplace, Nat.add_sub_cancel, decide_eq_false hhigh, cond_false, decide_eq_true (by omega), Bool.true_and]

/-- A right shift takes every bit from `c` places above, and from the sign where there is none (R201). -/
theorem getLsbD_asr60 (v : Word60) (c : Nat) (hn : n < 60) : (asr60 v c).getLsbD n = v.getLsbD (min (n + c) 59) := by
  rw [asr60, BitVec.getLsbD_sshiftRight, decide_eq_false (by omega), Bool.not_false, Bool.true_and]
  by_cases hin : c + n < 60
  · rw [if_pos hin, Nat.min_eq_left (by omega), Nat.add_comm]
  · rw [if_neg hin, Nat.min_eq_right (by omega), BitVec.msb_eq_getLsbD_last]

/-- A mask has its ones in the high places (R204). -/
theorem getLsbD_highMask (c : Nat) (hn : n < 60) : (highMask c).getLsbD n = decide (60 ≤ n + c) := by
  have hplace : (!decide (c + n < 60)) = decide (60 ≤ n + c) := by
    rw [← decide_not, decide_eq_decide]
    omega
  rw [highMask, getLsbD_not60 _ hn, BitVec.getLsbD_ushiftRight, BitVec.getLsbD_allOnes, hplace]

/-- 22 shifts left by the low six bits of (Bj), or right by the low twelve of its complement (R202). -/
theorem getLsbD_shiftNominal (v : Word60) (b : Word18) (hn : n < 60) :
    if b.getLsbD 17 = false then (shiftNominal v b).getLsbD ((n + b.toNat % 64) % 60) = v.getLsbD n
    else (shiftNominal v b).getLsbD n = v.getLsbD (min (n + (~~~b).toNat % 4096) 59) := by
  have hsign : b.msb = b.getLsbD 17 := b.msb_eq_getLsbD_last
  cases hb : b.getLsbD 17 <;> rw [hb] at hsign
  · rw [if_pos rfl, shiftNominal, hsign, if_neg Bool.false_ne_true, getLsbD_rotl v _ hn]
  · rw [if_neg (by decide), shiftNominal, hsign, if_pos rfl, getLsbD_asr60 v _ hn]

/-- 23 shifts right by the low twelve bits of (Bj), or left by the low six of its complement (R203). -/
theorem getLsbD_shiftNominalRight (v : Word60) (b : Word18) (hn : n < 60) :
    if b.getLsbD 17 = false then (shiftNominalRight v b).getLsbD n = v.getLsbD (min (n + b.toNat % 4096) 59)
    else (shiftNominalRight v b).getLsbD ((n + (~~~b).toNat % 64) % 60) = v.getLsbD n := by
  have hsign : b.msb = b.getLsbD 17 := b.msb_eq_getLsbD_last
  cases hb : b.getLsbD 17 <;> rw [hb] at hsign
  · rw [if_pos rfl, shiftNominalRight, hsign, if_neg Bool.false_ne_true, getLsbD_asr60 v _ hn]
  · rw [if_neg (by decide), shiftNominalRight, hsign, if_pos rfl, getLsbD_rotl v _ hn]

/-- Settles O12: each instruction delivers one shift or mask, which is known at each bit. -/
theorem shiftsAndMaskBitByBit : Obligations.ShiftsAndMaskBitByBit := by
  intro s i j k jk
  refine ⟨⟨_, rfl, onlyX_setX s i _, fun n hn => ?left⟩, ⟨_, rfl, onlyX_setX s i _, fun n hn => ?right⟩,
    ⟨_, rfl, onlyX_setX s i _, fun n hn => ?nominalLeft⟩, ⟨_, rfl, onlyX_setX s i _, fun n hn => ?nominalRight⟩,
    ⟨_, rfl, onlyX_setX s i _, fun n hn => ?mask⟩⟩
  case left => rw [getX_setX_same, getLsbD_rotl _ _ hn]
  case right => rw [getX_setX_same, getLsbD_asr60 _ _ hn]
  case nominalLeft => simpa only [getX_setX_same] using getLsbD_shiftNominal (getX s k) (getB s j) hn
  case nominalRight => simpa only [getX_setX_same] using getLsbD_shiftNominalRight (getX s k) (getB s j) hn
  case mask => rw [getX_setX_same, getLsbD_highMask _ hn]

end Sys2Proof.Machine
end

section
/-!
The floating word (43_cpu_floating.md R220 to R222) as sign, exponent and magnitude: the complement of a word changes its sign
alone, and packing builds the word of a sign, an exponent and a coefficient. With it unpack and pack (42 R198, R199), bit by bit.
-/

namespace Sys2Proof.Machine

open Sys2Proof

variable {w : Word60} {n m : Nat}

/-! ### One result in X[i] and one in B[j] -/

@[simp] theorem getX_setB (s : State) (j i : Reg) (b : Word18) : getX (setB s j b) i = getX s i := by
  unfold setB
  split <;> rfl

@[simp] theorem getB_setX (s : State) (i j : Reg) (v : Word60) : getB (setX s i v) j = getB s j := rfl

/-- Setting X[i] and then B[j] changes nothing else. -/
theorem onlyXB_setB_setX (s : State) (i j : Reg) (v : Word60) (b : Word18) : OnlyXB s (setB (setX s i v) j b) i j := by
  obtain ⟨hframe, hothers, hzero, -, hmem⟩ := (setB_spec (setX s i v) j b).1
  refine ⟨?_, fun q hq => ?_, hothers, hzero, hmem⟩
  · conv => lhs; rw [hframe]
    unfold setB
    split <;> rfl
  · rw [getX_setB, getX_setX_other s i q v hq]

/-! ### The complement of a word -/

theorem msb_not60 (w : Word60) : (~~~w).msb = !w.msb := by rw [BitVec.msb_not, decide_eq_true (by decide), Bool.true_and]

theorem fpCoef_not (w : Word60) : fpCoef (~~~w) = fpCoef w := by
  rw [fpCoef, fpCoef, msb_not60, BitVec.not_not]
  cases w.msb <;> rfl

/-- A bit of the exponent: the bit of the field, the highest one flipped for a positive word, the others for a negative one. -/
theorem getLsbD_fpExp11 (w : Word60) (hn : n < 11) :
    (fpExp11 w).getLsbD n = if n = 10 then (w.msb == w.getLsbD 58) else (w.msb != w.getLsbD (48 + n)) := by
  have hbias : (0o2000 : BitVec 11).getLsbD n = decide (n = 10) := by
    revert n
    decide
  rw [fpExp11, BitVec.getLsbD_xor, hbias]
  cases w.msb <;> by_cases h : n = 10 <;> simp [hn, h]

theorem fpExp11_not (w : Word60) : fpExp11 (~~~w) = fpExp11 w := by
  apply BitVec.eq_of_getLsbD_eq
  intro n hn
  rw [getLsbD_fpExp11 _ hn, getLsbD_fpExp11 _ hn, msb_not60, getLsbD_not60 w (by decide), getLsbD_not60 w (by omega)]
  cases w.msb <;> simp

theorem fpExp_not (w : Word60) : fpExp (~~~w) = fpExp w := congrArg ocVal (fpExp11_not w)

theorem fpCoef_lt (w : Word60) : fpCoef w < 2 ^ 48 := Nat.mod_lt _ (by decide)

/-- The exponent field as a number: the bias is 1024, and one less below it (R220). -/
theorem ocVal_unbias (f : BitVec 11) :
    ocVal (f ^^^ 0o2000) = if f.toNat < 1024 then (f.toNat : Int) - 1023 else f.toNat - 1024 := by
  revert f
  decide +kernel

/-- The exponent of a positive word, by its upper twelve bits. -/
theorem fpExp_of_pos (h : w.msb = false) :
    fpExp w = if fpTop w < 1024 then (fpTop w : Int) - 1023 else fpTop w - 1024 := by
  have hlt : w.toNat < 2 ^ 59 := by simpa [BitVec.msb_eq_decide] using h
  have hfield : ((w >>> 48).setWidth 11 : BitVec 11).toNat = fpTop w := by
    rw [BitVec.toNat_setWidth, BitVec.toNat_ushiftRight, Nat.shiftRight_eq_div_pow, fpTop]
    omega
  rw [fpExp, fpExp11, h, ← hfield]
  exact ocVal_unbias _

theorem fpExp_le (w : Word60) : fpExp w ≤ 1023 := by
  have hpos (v : Word60) (h : v.msb = false) : fpExp v ≤ 1023 := by
    have hlt : v.toNat < 2 ^ 59 := by simpa [BitVec.msb_eq_decide] using h
    rw [fpExp_of_pos h, fpTop]
    split <;> omega
  cases h : w.msb
  · exact hpos w h
  · rw [← fpExp_not]
    exact hpos _ (by rw [msb_not60, h, Bool.not_true])

/-- Normalized says that the coefficient has its highest bit (R222). -/
theorem fpNorm_iff (w : Word60) : fpNorm w = true ↔ 2 ^ 47 ≤ fpCoef w := by
  have hbit (v : Word60) : v.getLsbD 47 = decide (2 ^ 47 ≤ v.toNat % 2 ^ 48) := by
    rw [← BitVec.testBit_toNat, Nat.testBit_eq_decide_div_mod_eq, decide_eq_decide]
    omega
  rw [fpNorm, fpCoef]
  cases h : w.msb
  · rw [hbit]
    simp
  · have hnot : w.getLsbD 47 = !(~~~w).getLsbD 47 := by rw [getLsbD_not60 w (by decide), Bool.not_not]
    rw [hnot, hbit, if_pos rfl]
    simp

/-! ### Packing (R221) -/

/-- The exponent field of a positive word. -/
def biased (x : Int) : Nat := if 0 ≤ x then 1024 + x.toNat else 1023 - x.natAbs

theorem fpPack_true (x : Int) (m : Nat) : fpPack true x m = ~~~fpPack false x m := rfl

theorem toNat_fpPack_false {x : Int} (hx : x ≤ 1023) (hm : m < 2 ^ 48) :
    (fpPack false x m).toNat = biased x * 2 ^ 48 + m := by
  have hfield : biased x < 2048 := by unfold biased; split <;> omega
  have hpack : fpPack false x m = BitVec.ofNat 60 (biased x * 2 ^ 48 + m) := rfl
  rw [hpack, BitVec.toNat_ofNat, Nat.mod_eq_of_lt (by omega)]

/-- Packing an exponent in range and a coefficient gives a word of that sign, exponent and coefficient. -/
theorem fpPack_spec (neg : Bool) {x : Int} (hlow : -1023 ≤ x) (hhigh : x ≤ 1023) (hm : m < 2 ^ 48) :
    fpCoef (fpPack neg x m) = m ∧ fpExp (fpPack neg x m) = x ∧ (fpPack neg x m).msb = neg := by
  have hnat := toNat_fpPack_false hhigh hm
  have hfield : biased x < 2048 := by unfold biased; split <;> omega
  have hmsb : (fpPack false x m).msb = false := by
    rw [BitVec.msb_eq_decide, hnat, decide_eq_false (by omega)]
  have htop : fpTop (fpPack false x m) = biased x := by
    rw [fpTop, hnat]
    omega
  have hcoef : fpCoef (fpPack false x m) = m := by
    rw [fpCoef, hmsb, if_neg Bool.false_ne_true, hnat]
    omega
  have hexp : fpExp (fpPack false x m) = x := by
    rw [fpExp_of_pos hmsb, htop, biased]
    split_ifs <;> omega
  cases neg
  · exact ⟨hcoef, hexp, hmsb⟩
  · rw [fpPack_true, fpCoef_not, fpExp_not, msb_not60, hmsb]
    exact ⟨hcoef, hexp, rfl⟩

/-! ### Unpack and pack (42 R198, R199) -/

/-- Unpacking extends the coefficient by the sign. -/
theorem getLsbD_unpackWord (w : Word60) (hn : n < 60) :
    (unpackWord w).1.getLsbD n = if n < 48 then w.getLsbD n else w.msb := by
  have hmask : (if w.msb = true then highMask 12 else 0).getLsbD n = (w.msb && decide (48 ≤ n)) := by
    cases w.msb
    · exact BitVec.getLsbD_zero
    · rw [if_pos rfl, getLsbD_highMask 12 hn, Bool.true_and, decide_eq_decide]
      omega
  rw [unpackWord, BitVec.getLsbD_or, hmask, BitVec.getLsbD_setWidth, BitVec.getLsbD_setWidth, decide_eq_true hn, Bool.true_and]
  by_cases h : n < 48
  · simp [h]
  · simp [h, Nat.le_of_not_lt h]

/-- A bit of the exponent that unpacking delivers. -/
theorem getLsbD_unpackWord_exponent (w : Word60) (hn : n < 11) :
    (unpackWord w).2.getLsbD n = if n = 10 then (w.msb == w.getLsbD 58) else (w.msb != w.getLsbD (48 + n)) := by
  rw [unpackWord, BitVec.getLsbD_signExtend, if_pos hn, decide_eq_true (by omega), Bool.true_and, getLsbD_fpExp11 w hn]

/-- The exponent field that packing makes: the highest bit is flipped for a positive coefficient, the others for a negative
one. -/
theorem getLsbD_packedField (neg : Bool) (e : BitVec 11) (hn : n < 11) :
    (if neg = true then e ^^^ 0o1777 else e ^^^ 0o2000).getLsbD n =
      if n = 10 then (neg == e.getLsbD 10) else (neg != e.getLsbD n) := by
  obtain ⟨hhighest, hothers⟩ :
      (0o2000 : BitVec 11).getLsbD n = decide (n = 10) ∧ (0o1777 : BitVec 11).getLsbD n = !decide (n = 10) := by
    revert n
    decide
  rw [apply_ite (BitVec.getLsbD · n), BitVec.getLsbD_xor, BitVec.getLsbD_xor, hhighest, hothers]
  by_cases h : n = 10 <;> cases neg <;> simp [h]

/-- Packing keeps sign and coefficient and puts the exponent between them, biased, and complemented for a negative word. -/
theorem getLsbD_packWord (v : Word60) (b : Word18) (hn : n < 60) :
    (packWord v b).getLsbD n =
      if n < 48 ∨ n = 59 then v.getLsbD n
      else if n = 58 then (v.msb == b.getLsbD 10) else (v.msb != b.getLsbD (n - 48)) := by
  have hmask : (0o40007777777777777777#60).getLsbD n = decide (n < 48 ∨ n = 59) := by
    revert n
    decide
  rw [packWord, BitVec.getLsbD_or, BitVec.getLsbD_and, hmask, BitVec.getLsbD_shiftLeft, BitVec.getLsbD_setWidth,
    decide_eq_true hn, decide_eq_true (by omega : n - 48 < 60), Bool.true_and, Bool.true_and]
  by_cases hkept : n < 48 ∨ n = 59
  · have hfield (f : BitVec 11) : (!decide (n < 48) && f.getLsbD (n - 48)) = false := by
      rcases hkept with h | rfl
      · rw [decide_eq_true h, Bool.not_true, Bool.false_and]
      · exact BitVec.getLsbD_of_ge f 11 (by decide)
    rw [if_pos hkept, hfield, decide_eq_true hkept, Bool.and_true, Bool.or_false]
  · obtain ⟨hge, hne⟩ := not_or.1 hkept
    have hplace : n - 48 = 10 ↔ n = 58 := by omega
    rw [if_neg hkept, decide_eq_false hkept, Bool.and_false, Bool.false_or, decide_eq_false hge, Bool.not_false, Bool.true_and,
      getLsbD_packedField _ _ (by omega)]
    simp only [hplace, BitVec.getLsbD_setWidth, decide_eq_true (by omega : n - 48 < 11), Bool.true_and,
      decide_eq_true (by decide : 10 < 11)]

/-- Packing what unpacking delivered restores the word (R199 c): the bits of the exponent are flipped twice. -/
theorem packWord_unpackWord (w : Word60) : packWord (unpackWord w).1 (unpackWord w).2 = w := by
  have hsign : (unpackWord w).1.msb = w.msb := by
    rw [BitVec.msb_eq_getLsbD_last, getLsbD_unpackWord w (by decide), if_neg (by decide)]
  have htwiceEq (a b : Bool) : (a == (a == b)) = b := by cases a <;> cases b <;> rfl
  have htwiceNe (a b : Bool) : (a != (a != b)) = b := by cases a <;> cases b <;> rfl
  apply BitVec.eq_of_getLsbD_eq
  intro n hn
  rw [getLsbD_packWord _ _ hn, hsign]
  by_cases hkept : n < 48 ∨ n = 59
  · rw [if_pos hkept, getLsbD_unpackWord w hn]
    rcases hkept with h | rfl
    · rw [if_pos h]
    · rw [if_neg (by decide), BitVec.msb_eq_getLsbD_last]
  · rw [if_neg hkept]
    by_cases htop : n = 58
    · rw [if_pos htop, getLsbD_unpackWord_exponent w (by decide), if_pos rfl, htwiceEq, htop]
    · rw [if_neg htop, getLsbD_unpackWord_exponent w (by omega), if_neg (by omega), htwiceNe,
        Nat.add_sub_cancel' (by omega)]

/-- Settles O15: both words are known at each bit, and so is the word that the two restore. -/
theorem unpackAndPackAreInverse : Obligations.UnpackAndPackAreInverse := by
  intro s i j k l
  refine ⟨⟨_, rfl, onlyXB_setB_setX s i j _ _, fun n hn => ?_, (setB_spec _ j _).2⟩,
    ⟨_, rfl, onlyX_setX s i _, fun n hn => ?_⟩, fun hj => ⟨_, _, rfl, rfl, ?_⟩⟩
  · rw [getX_setB, getX_setX_same, getLsbD_unpackWord _ hn]
  · rw [getX_setX_same, getLsbD_packWord _ _ hn]
  · rw [getX_setX_same, getX_setB, getX_setX_same, getB_setB_same _ _ _ hj, packWord_unpackWord]

end Sys2Proof.Machine
end

section
/-!
Normalize, and round and normalize (42_cpu_boolean_shift_normalize.md R206, R207): one count for both, and the word that each
delivers, case by case.
-/

namespace Sys2Proof.Machine

open Sys2Proof

variable {w : Word60} {n m : Nat}

/-! ### The count -/

theorem fpSpecial_iff (w : Word60) : fpSpecial w = true ↔ fpClass w = .inf ∨ fpClass w = .ind := by
  rw [fpSpecial, Bool.or_eq_true, beq_iff_eq, beq_iff_eq]

theorem fpSpecial_eq_false (hinf : fpClass w ≠ .inf) (hind : fpClass w ≠ .ind) : fpSpecial w = false := by
  rw [← Bool.not_eq_true, fpSpecial_iff]
  exact not_or.2 ⟨hinf, hind⟩

/-- Shifting out the leading zeros brings the highest one to bit 47. -/
theorem leadingZeros48_spec (h0 : m ≠ 0) (hm : m < 2 ^ 48) :
    leadingZeros48 m ≤ 47 ∧ 2 ^ 47 ≤ m * 2 ^ leadingZeros48 m ∧ m * 2 ^ leadingZeros48 m < 2 ^ 48 := by
  have hlog : m.log2 < 48 := (Nat.log2_lt h0).2 hm
  have hshift (a b : Nat) (hab : a + (47 - m.log2) = b) : 2 ^ a * 2 ^ (47 - m.log2) = 2 ^ b := by
    rw [← pow_add, hab]
  rw [leadingZeros48]
  refine ⟨Nat.sub_le _ _, ?_, ?_⟩
  · calc 2 ^ 47 = 2 ^ m.log2 * 2 ^ (47 - m.log2) := (hshift _ _ (by omega)).symm
      _ ≤ m * 2 ^ (47 - m.log2) := Nat.mul_le_mul_right _ (Nat.log2_self_le h0)
  · calc m * 2 ^ (47 - m.log2) < 2 ^ (m.log2 + 1) * 2 ^ (47 - m.log2) :=
        Nat.mul_lt_mul_of_pos_right Nat.lt_log2_self (Nat.two_pow_pos _)
      _ = 2 ^ 48 := hshift _ _ (by omega)

/-- The count that 24 and 25 deliver to Bj. -/
def normalizeCount (w : Word60) : Nat :=
  if fpSpecial w = true then 0 else if fpCoef w = 0 then 48 else leadingZeros48 (fpCoef w)

theorem normalize_count (w : Word60) : (normalize w).2 = BitVec.ofNat 18 (normalizeCount w) := by
  unfold normalize normalizeCount
  dsimp only
  split_ifs <;> rfl

theorem roundNormalize_count (w : Word60) : (roundNormalize w).2 = BitVec.ofNat 18 (normalizeCount w) := by
  unfold roundNormalize normalizeCount
  dsimp only
  split_ifs <;> rfl

theorem normalizeCount_special (h : fpSpecial w = true) : normalizeCount w = 0 := if_pos h

theorem normalizeCount_zero (h : fpSpecial w = false) (h0 : fpCoef w = 0) : normalizeCount w = 48 := by
  rw [normalizeCount, h, if_neg Bool.false_ne_true, if_pos h0]

theorem normalizeCount_number (h : fpSpecial w = false) (h0 : fpCoef w ≠ 0) :
    normalizeCount w = leadingZeros48 (fpCoef w) := by
  rw [normalizeCount, h, if_neg Bool.false_ne_true, if_neg h0]

theorem normalizeCount_le (w : Word60) : normalizeCount w ≤ 48 := by
  unfold normalizeCount leadingZeros48
  split_ifs <;> omega

/-- A coefficient shifted by its count has bit 47 as its highest bit. -/
theorem shifted_by_normalizeCount (h : fpSpecial w = false) (h0 : fpCoef w ≠ 0) :
    2 ^ 47 ≤ fpCoef w * 2 ^ normalizeCount w ∧ fpCoef w * 2 ^ normalizeCount w < 2 ^ 48 := by
  rw [normalizeCount_number h h0]
  exact (leadingZeros48_spec h0 (fpCoef_lt w)).2

/-! ### The word of 24 (R206) -/

theorem normalize_special (h : fpSpecial w = true) : (normalize w).1 = w := by rw [normalize, if_pos h]

theorem normalize_zero (h : fpSpecial w = false) (h0 : fpCoef w = 0) : (normalize w).1 = signWord w := by
  simp only [normalize, h, Bool.false_eq_true, if_false, if_pos h0]

theorem normalize_number (h : fpSpecial w = false) (h0 : fpCoef w ≠ 0) :
    (normalize w).1 = if fpExp w - normalizeCount w < -1023 then signWord w
      else fpPack w.msb (fpExp w - normalizeCount w) (fpCoef w * 2 ^ normalizeCount w) := by
  have hlt := (shifted_by_normalizeCount h h0).2
  rw [normalizeCount_number h h0] at hlt ⊢
  simp only [normalize, h, Bool.false_eq_true, if_false, if_neg h0, Nat.mod_eq_of_lt hlt]

/-! ### The word of 25 (R207) -/

/-- The coefficient of 25: a zero one is the round bit in bit 47, another is shifted with the round bit behind it. -/
def roundBitCoef (w : Word60) : Nat :=
  if fpCoef w = 0 then 2 ^ 47 else fpCoef w * 2 ^ normalizeCount w + 2 ^ normalizeCount w / 2

/-- The round bit is half of the lowest place. -/
theorem shifted_with_round_bit (m n : Nat) : (2 * m + 1) * 2 ^ n / 2 = m * 2 ^ n + 2 ^ n / 2 := by
  rw [Nat.add_mul, Nat.mul_assoc, Nat.one_mul, Nat.mul_add_div (by decide)]

/-- The round bit does not carry out of the coefficient. -/
theorem round_bit_fits (hn : n ≤ 48) (hm : m * 2 ^ n < 2 ^ 48) : m * 2 ^ n + 2 ^ n / 2 < 2 ^ 48 := by
  have hsplit : 2 ^ 48 = 2 ^ (48 - n) * 2 ^ n := by rw [← pow_add, Nat.sub_add_cancel hn]
  have hpos : 0 < 2 ^ n := Nat.two_pow_pos n
  have hsucc : (m + 1) * 2 ^ n ≤ 2 ^ 48 := by
    rw [hsplit] at hm ⊢
    exact Nat.mul_le_mul_right _ (Nat.lt_of_mul_lt_mul_right hm)
  rw [Nat.add_mul, Nat.one_mul] at hsucc
  omega

theorem roundBitCoef_lt (h : fpSpecial w = false) : roundBitCoef w < 2 ^ 48 := by
  unfold roundBitCoef
  split_ifs with h0
  · decide
  · exact round_bit_fits (normalizeCount_le w) (shifted_by_normalizeCount h h0).2

theorem roundNormalize_special (h : fpSpecial w = true) : (roundNormalize w).1 = w := by rw [roundNormalize, if_pos h]

theorem roundNormalize_number (h : fpSpecial w = false) :
    (roundNormalize w).1 = if fpExp w - normalizeCount w < -1023 then signWord w
      else fpPack w.msb (fpExp w - normalizeCount w) (roundBitCoef w) := by
  have hlt := roundBitCoef_lt h
  by_cases h0 : fpCoef w = 0
  · rw [normalizeCount_zero h h0, roundBitCoef, if_pos h0]
    simp only [roundNormalize, h, Bool.false_eq_true, if_false, if_pos h0]
  · rw [roundBitCoef, if_neg h0, normalizeCount_number h h0, ← shifted_with_round_bit] at hlt ⊢
    simp only [roundNormalize, h, Bool.false_eq_true, if_false, if_neg h0, Nat.mod_eq_of_lt hlt]

/-! ### The obligations -/

/-- An exponent that falls by a count and stays in range is one that packing keeps. -/
theorem fpPack_lowered_spec (w : Word60) (h : -1023 ≤ fpExp w - n) (hm : m < 2 ^ 48) :
    fpCoef (fpPack w.msb (fpExp w - n) m) = m ∧ fpExp (fpPack w.msb (fpExp w - n) m) = fpExp w - n
      ∧ (fpPack w.msb (fpExp w - n) m).msb = w.msb :=
  fpPack_spec w.msb h (by have := fpExp_le w; omega) hm

/-- Settles O13: by the class of the word and its coefficient. -/
theorem normalizeShiftsOutLeadingZeros : Obligations.NormalizeShiftsOutLeadingZeros := by
  intro s i j k
  refine ⟨_, normalizeCount (getX s k), rfl, onlyXB_setB_setX s i j _ _, normalizeCount_le _,
    normalize_count (getX s k) ▸ (setB_spec _ j _).2, ?_⟩
  rw [getX_setB, getX_setX_same]
  generalize getX s k = w
  refine ⟨fun hspecial => ?_, fun hinf hind => ?_⟩
  · have h := (fpSpecial_iff w).2 hspecial
    exact ⟨normalize_special h, normalizeCount_special h⟩
  have h := fpSpecial_eq_false hinf hind
  refine ⟨fun h0 => ⟨normalizeCount_zero h h0, normalize_zero h h0⟩, fun h0 => ?_⟩
  obtain ⟨hlow, hhigh⟩ := shifted_by_normalizeCount h h0
  refine ⟨hlow, hhigh, fun hunder => ?_, fun hrange => ?_⟩
  · rw [normalize_number h h0, if_pos hunder]
    rfl
  · rw [normalize_number h h0, if_neg (Int.not_lt.2 hrange), fpNorm_iff]
    obtain ⟨hcoef, hexp, hsign⟩ := fpPack_lowered_spec w hrange hhigh
    exact ⟨hcoef, hexp, hsign, hcoef.symm ▸ hlow⟩

/-- Settles O14: by the class of the word, with the rounded coefficient. -/
theorem roundNormalizeAddsTheRoundBit : Obligations.RoundNormalizeAddsTheRoundBit := by
  intro s i j k
  refine ⟨_, normalizeCount (getX s k), rfl, onlyXB_setB_setX s i j _ _, normalizeCount_le _,
    roundNormalize_count (getX s k) ▸ (setB_spec _ j _).2, ?_⟩
  rw [getX_setB, getX_setX_same]
  generalize getX s k = w
  refine ⟨fun hspecial => ?_, fun hinf hind => ?_⟩
  · have h := (fpSpecial_iff w).2 hspecial
    exact ⟨roundNormalize_special h, normalizeCount_special h⟩
  have h := fpSpecial_eq_false hinf hind
  refine ⟨normalizeCount_zero h, shifted_by_normalizeCount h, fun hunder => ?_, fun hrange => ?_⟩
  · rw [roundNormalize_number h, if_pos hunder]
    rfl
  · rw [roundNormalize_number h, if_neg (Int.not_lt.2 hrange)]
    exact fpPack_lowered_spec w hrange (roundBitCoef_lt h)

end Sys2Proof.Machine
end

section
/-!
The delivery of a floating result (43_cpu_floating.md R224; 60_exceptions.md R417) and the special operands (43 R222, R223):
what a unit can answer, what its delivery writes, and the tables by the classes of the operands.
-/

namespace Sys2Proof.Machine

open Sys2Proof

variable {s : State} {i : Reg} {r : FpResult} {xj xk : Word60} {f : PsdFlag}

/-! ### What a unit answers -/

/-- What a floating unit can answer: a special result with its flag (R223), or a word with none. -/
inductive UnitAnswer : FpResult → Prop
  | inf (neg : Bool) : UnitAnswer (fpInf neg)
  | ind : UnitAnswer fpInd
  | zero (neg : Bool) : UnitAnswer (fpZero neg)
  | word (w : Word60) : UnitAnswer (w, none)

/-- The flag of an answer is an arithmetic one, which stands in the three lowest bits of the PSD. -/
theorem UnitAnswer.arithmetic (h : UnitAnswer r) (hf : r.2 = some f) :
    (f = .underflow ∨ f = .overflow ∨ f = .indefinite) ∧ psdBit f < 3 := by
  cases h with
  | inf | ind | zero => cases hf; decide
  | word => cases hf

theorem UnitAnswer.ite {c : Prop} [Decidable c] {q : FpResult} (hr : UnitAnswer r) (hq : UnitAnswer q) :
    UnitAnswer (if c then r else q) := by
  split
  · exact hr
  · exact hq

theorem specialAdd_answer (h : specialAdd xj xk = some r) : UnitAnswer r := by
  unfold specialAdd at h
  generalize fpClass xj = cj, fpClass xk = ck at h
  split at h
  case h_3 => split at h <;> cases h <;> constructor
  all_goals cases h <;> constructor

theorem specialMul_answer (h : specialMul xj xk = some r) : UnitAnswer r := by
  unfold specialMul at h
  generalize fpClass xj = cj, fpClass xk = ck at h
  dsimp only at h
  split at h <;> cases h <;> constructor

theorem specialDiv_answer (h : specialDiv xj xk = some r) : UnitAnswer r := by
  unfold specialDiv at h
  generalize fpClass xj = cj, fpClass xk = ck at h
  dsimp only at h
  split at h <;> cases h <;> constructor

/-! ### Which algorithm runs -/

/-- The second operand of the Add unit: subtraction adds the complement (R225). -/
def addend (xk : Word60) (sub : Bool) : Word60 := if sub then ~~~xk else xk

theorem fadd_special {sub : Bool} (far dp rnd : Bool) (h : specialAdd xj (addend xk sub) = some r) :
    fadd far xj xk sub dp rnd = r := by
  unfold addend at h
  simp only [fadd, h]

theorem fadd_num {sub : Bool} (far dp rnd : Bool) (h : specialAdd xj (addend xk sub) = none) :
    fadd far xj xk sub dp rnd = faddNum far xj xk (addend xk sub) dp rnd := by
  unfold addend at h
  simp only [fadd, h]
  rfl

theorem fmul_special (dp : Bool) (weight : Nat) (h : specialMul xj xk = some r) : fmul xj xk dp weight = r := by
  simp only [fmul, h]

theorem fdiv_special (rnd : Bool) (h : specialDiv xj xk = some r) : fdiv xj xk rnd = r := by simp only [fdiv, h]

theorem fadd_answer (far : Bool) (xj xk : Word60) (sub dp rnd : Bool) : UnitAnswer (fadd far xj xk sub dp rnd) := by
  cases h : specialAdd xj (addend xk sub) with
  | some r =>
    rw [fadd_special far dp rnd h]
    exact specialAdd_answer h
  | none =>
    rw [fadd_num far dp rnd h]
    exact .ite (.zero _) (.ite (.word _) (.ite (.word _) (.word _)))

theorem fmul_answer (xj xk : Word60) (dp : Bool) (weight : Nat) : UnitAnswer (fmul xj xk dp weight) := by
  cases h : specialMul xj xk with
  | some r =>
    rw [fmul_special dp weight h]
    exact specialMul_answer h
  | none =>
    simp only [fmul, h]
    exact .ite (.inf _) (.ite (.zero _) (.ite (.word _) (.word _)))

theorem fdiv_answer (xj xk : Word60) (rnd : Bool) : UnitAnswer (fdiv xj xk rnd) := by
  cases h : specialDiv xj xk with
  | some r =>
    rw [fdiv_special rnd h]
    exact specialDiv_answer h
  | none =>
    simp only [fdiv, h]
    exact .ite (.inf _) (.ite (.zero _) (.ite .ind (.word _)))

theorem FloatsTo.answer {ins : Instr} (h : FloatsTo s ins i r) : UnitAnswer r := by
  cases h with
  | fx30 | fx31 | dx32 | dx33 | rx34 | rx35 => exact fadd_answer _ _ _ _ _ _
  | fx40 | rx41 | dx42 => exact fmul_answer _ _ _ _
  | fx44 | rx45 => exact fdiv_answer _ _ _

/-! ### Delivery -/

theorem deliver_none (s : State) (i : Reg) (h : r.2 = none) : deliver s i r = setX s i r.1 := by simp only [deliver, h]

theorem deliver_some (s : State) (i : Reg) (h : r.2 = some f) : deliver s i r = raiseLate (setX s i r.1) f := by
  simp only [deliver, h]

/-- A flag delivered is the word, that flag, and some slip. -/
theorem deliver_flagged (s : State) (i : Reg) (h : r.2 = some f) :
    ∃ slip, deliver s i r = flagged (setX s i r.1) [f] slip := by
  rw [deliver_some s i h]
  exact raiseLate_flagged _ f

/-- The word is delivered, flag or no flag (R224 b). -/
@[simp] theorem getX_deliver (s : State) (i : Reg) (r : FpResult) : getX (deliver s i r) i = r.1 := by
  cases h : r.2 with
  | none => rw [deliver_none s i h, getX_setX_same]
  | some f =>
    obtain ⟨slip, hs⟩ := deliver_flagged s i h
    rw [hs]
    exact getX_setX_same s i r.1

/-- The flag of the result becomes set, and no other. -/
theorem flag_deliver (s : State) (i : Reg) (r : FpResult) (g : PsdFlag) :
    flag (deliver s i r) g = (decide (r.2 = some g) || flag s g) := by
  cases h : r.2 with
  | none => rw [deliver_none s i h]; rfl
  | some f =>
    obtain ⟨slip, hs⟩ := deliver_flagged s i h
    rw [hs, decide_eq_decide.2 (show some f = some g ↔ g = f by rw [Option.some_inj, eq_comm]), ← flag_setFlag]
    rfl

/-- An arithmetic flag and a slip set with X[i] are within the frame of a floating instruction. -/
theorem onlyXFlags_flagged (s : State) (i : Reg) (v : Word60) (slip : Option Nat) (hf : psdBit f < 3) :
    OnlyXFlags s (flagged (setX s i v) [f] slip) i := by
  refine ⟨rfl, fun q hq => getX_setX_other s i q v hq, fun n hn => ?_, fun _ => rfl, fun _ => rfl, fun _ _ => rfl⟩
  have hbit : (BitVec.twoPow 18 (psdBit f)).getLsbD n = false := by
    rw [BitVec.getLsbD_twoPow, decide_eq_false (by omega : psdBit f ≠ n), Bool.and_false]
  exact (BitVec.getLsbD_or ..).trans (by rw [hbit, Bool.or_false]; rfl)

/-- A delivery changes X[i], the arithmetic flags and SLIP alone. -/
theorem onlyXFlags_deliver (s : State) (i : Reg) (h : UnitAnswer r) : OnlyXFlags s (deliver s i r) i := by
  cases hr : r.2 with
  | none =>
    rw [deliver_none s i hr]
    exact ⟨rfl, fun q hq => getX_setX_other s i q r.1 hq, fun _ _ => rfl, fun _ => rfl, fun _ => rfl, fun _ _ => rfl⟩
  | some f =>
    obtain ⟨slip, hs⟩ := deliver_flagged s i hr
    rw [hs]
    exact onlyXFlags_flagged s i r.1 slip (h.arithmetic hr).2

/-- A lowered slip is at most what it was, and where there was none, what was drawn. -/
theorem lowerSlip_spec (old : Option Nat) (n : Nat) :
    ∃ k, lowerSlip old n = some k ∧ (old = none → k = n) ∧ ∀ m, old = some m → k ≤ m := by
  cases old with
  | none => exact ⟨n, rfl, fun _ => rfl, nofun⟩
  | some m => exact ⟨min n m, rfl, nofun, fun _ hm => Option.some_inj.1 hm ▸ Nat.min_le_right n m⟩

/-- SLIP after the delivery of a flag: lowered by a draw where the flag was clear and is a cause (R417). -/
theorem deliver_slip (s : State) (i : Reg) (h : r.2 = some f) : (deliver s i r).cpu.slip =
    if flag s f = false ∧ isCause s.cpu.psd f = true then lowerSlip s.cpu.slip (drawSlip s f) else s.cpu.slip := by
  rw [deliver_some s i h]
  exact (raiseWith_spec (setX s i r.1) f _).2

/-- Settles O17: a floating instruction is the delivery of its unit's answer. -/
theorem floatingInstructionsDeliver : Obligations.FloatingInstructionsDeliver := by
  intro s ins i r h
  refine ⟨_, exec_of_floatsTo h, onlyXFlags_deliver s i h.answer, getX_deliver s i r, fun hr => ?_, fun f hr => ?_⟩
  · rw [deliver_none s i hr]
    exact ⟨rfl, rfl⟩
  refine ⟨(h.answer.arithmetic hr).1, ?_, fun hkept => ?_, fun hclear hcause => ?_⟩
  · obtain ⟨slip, hs⟩ := deliver_flagged s i hr
    rw [hs]
    rfl
  · rw [deliver_slip s i hr, if_neg]
    rintro ⟨hclear, hcause⟩
    rcases hkept with hset | hno
    · exact absurd (hset.symm.trans hclear) (by decide)
    · exact absurd (hcause.symm.trans hno) (by decide)
  · rw [deliver_slip s i hr, if_pos ⟨hclear, hcause⟩]
    obtain ⟨k, hk, hdrawn, hlower⟩ := lowerSlip_spec s.cpu.slip (drawSlip s f)
    exact ⟨k, hk, fun b hb hnone => hdrawn hnone ▸ drawSlip_bound s f b hb, hlower⟩

/-! ### The tables by class -/

/-- The complement of a word is of the same class: the patterns of each class come in complementary pairs (R222). -/
theorem fpClass_not (w : Word60) : fpClass (~~~w) = fpClass w := by
  have htop : fpTop (~~~w) = 0o7777 - fpTop w := by
    rw [fpTop, fpTop, BitVec.toNat_not]
    have := w.isLt
    omega
  have hlt : fpTop w < 0o10000 := by
    have := w.isLt
    rw [fpTop]
    omega
  have hpair (p q : Nat) (hpq : p + q = 0o7777) :
      (0o7777 - fpTop w = p ∨ 0o7777 - fpTop w = q) = (fpTop w = p ∨ fpTop w = q) := by
    apply propext
    omega
  simp only [fpClass, htop, hpair 0o1777 0o6000 rfl, hpair 0o3777 0o4000 rfl, hpair 0 0o7777 rfl]

@[simp] theorem fpClass_addend (w : Word60) (sub : Bool) : fpClass (addend w sub) = fpClass w := by
  cases sub
  · rfl
  · exact fpClass_not w

@[simp] theorem msb_addend (w : Word60) (sub : Bool) : (addend w sub).msb = (w.msb != sub) := by
  cases sub
  · exact (Bool.bne_false _).symm
  · exact (msb_not60 w).trans (Bool.bne_true _).symm

theorem specialAdd_ind (h : fpClass xj = .ind ∨ fpClass xk = .ind) : specialAdd xj xk = some fpInd := by
  unfold specialAdd
  rcases h with h | h
  · rw [h]
  · rw [h]
    cases fpClass xj <;> rfl

theorem specialMul_ind (h : fpClass xj = .ind ∨ fpClass xk = .ind) : specialMul xj xk = some fpInd := by
  unfold specialMul
  rcases h with h | h
  · rw [h]
  · rw [h]
    cases fpClass xj <;> rfl

theorem specialDiv_ind (h : fpClass xj = .ind ∨ fpClass xk = .ind) : specialDiv xj xk = some fpInd := by
  unfold specialDiv
  rcases h with h | h
  · rw [h]
  · rw [h]
    cases fpClass xj <;> rfl

/-- Every unit answers an indefinite operand with the indefinite result. -/
theorem FloatsTo.indefinite {ins : Instr} (h : FloatsTo s ins i r) (ho : FloatOperands s ins xj xk)
    (hind : fpClass xj = .ind ∨ fpClass xk = .ind) : r = fpInd := by
  have hadd (far sub dp rnd : Bool) : fadd far xj xk sub dp rnd = fpInd :=
    fadd_special far dp rnd (specialAdd_ind (by rwa [fpClass_addend]))
  cases h <;> cases ho
  case fx30 | fx31 | dx32 | dx33 | rx34 | rx35 => exact hadd _ _ _ _
  case fx40 | rx41 | dx42 => exact fmul_special _ _ (specialMul_ind hind)
  case fx44 | rx45 => exact fdiv_special _ (specialDiv_ind hind)

/-- Settles O18: the indefinite result is delivered, with its flag and no other. -/
theorem indefiniteOperandGivesIndefinite : Obligations.IndefiniteOperandGivesIndefinite := by
  intro s ins i r xj xk h ho hind
  obtain rfl := h.indefinite ho hind
  refine ⟨_, exec_of_floatsTo h, getX_deliver s i fpInd, ?_, ?_, ?_⟩
  · exact flag_deliver s i fpInd .indefinite
  · exact flag_deliver s i fpInd .overflow
  · exact flag_deliver s i fpInd .underflow

/-- Infinities of one sign add to that infinity; of opposite signs they are indefinite. -/
theorem specialAdd_inf_inf (hj : fpClass xj = .inf) (hk : fpClass xk = .inf) :
    specialAdd xj xk = some (if xj.msb = xk.msb then fpInf xj.msb else fpInd) := by
  simp only [specialAdd, hj, hk]
  split <;> rfl

theorem specialDiv_inf_inf (hj : fpClass xj = .inf) (hk : fpClass xk = .inf) : specialDiv xj xk = some fpInd := by
  simp only [specialDiv, hj, hk]

theorem specialDiv_zero_zero (hj : fpClass xj = .zero) (hk : fpClass xk = .zero) : specialDiv xj xk = some fpInd := by
  simp only [specialDiv, hj, hk]

theorem specialDiv_by_zero (hj : fpClass xj = .num ∨ fpClass xj = .inf) (hk : fpClass xk = .zero) :
    specialDiv xj xk = some (fpInf (xj.msb != xk.msb)) := by
  rcases hj with hj | hj <;> simp only [specialDiv, hj, hk]

theorem specialDiv_by_inf (hj : fpClass xj = .num ∨ fpClass xj = .zero) (hk : fpClass xk = .inf) :
    specialDiv xj xk = some (fpZero (xj.msb != xk.msb)) := by
  rcases hj with hj | hj <;> simp only [specialDiv, hj, hk]

theorem specialMul_inf_zero (hj : fpClass xj = .inf) (hk : fpClass xk = .zero) :
    specialMul xj xk = some fpInd ∧ specialMul xk xj = some fpInd := by
  simp only [specialMul, hj, hk, and_self]

theorem specialMul_by_zero (hj : fpClass xj = .num ∨ fpClass xj = .zero) (hk : fpClass xk = .zero) :
    specialMul xj xk = some (fpZero (xj.msb != xk.msb)) := by
  rcases hj with hj | hj <;> simp only [specialMul, hj, hk]

/-- Settles O19: each corner is an entry of its unit's table. -/
theorem specialOperandTables : Obligations.SpecialOperandTables := by
  intro far xj xk dp rnd w
  refine ⟨fun hj hk => ⟨?_, ?_, fdiv_special rnd (specialDiv_inf_inf hj hk)⟩, fun hj hk => ?_,
    fun hj hk => fdiv_special rnd (specialDiv_zero_zero hj hk), fun hj hk => fdiv_special rnd (specialDiv_by_zero hj hk),
    fun hj hk => fdiv_special rnd (specialDiv_by_inf hj hk), fun hj hk => fmul_special dp w (specialMul_by_zero hj hk)⟩
  · exact fadd_special (sub := false) far dp rnd (specialAdd_inf_inf hj hk)
  · have hk' : fpClass (addend xk true) = .inf := (fpClass_addend xk true).trans hk
    rw [fadd_special far dp rnd (specialAdd_inf_inf hj hk'), msb_addend]
    cases xj.msb <;> cases xk.msb <;> rfl
  · obtain ⟨hprod, hcomm⟩ := specialMul_inf_zero hj hk
    exact ⟨fmul_special dp w hprod, fmul_special dp w hcomm⟩

end Sys2Proof.Machine
end

section
/-!
Products and quotients of numbers (43_cpu_floating.md R226, R227, R240 to R246): the word that each unit packs where the exponent
stays in range, by its coefficient as one division of the whole product or dividend.
-/

namespace Sys2Proof.Machine

open Sys2Proof

variable {x y : Word60} {weight : Nat}

theorem specialMul_num (hx : fpClass x = .num) (hy : fpClass y = .num) : specialMul x y = none := by
  simp only [specialMul, hx, hy]

theorem specialDiv_num (hx : fpClass x = .num) (hy : fpClass y = .num) : specialDiv x y = none := by
  simp only [specialDiv, hx, hy]

/-! ### The Multiply unit -/

/-- The product of the coefficients with its round bit. -/
def roundedProduct (x y : Word60) (weight : Nat) : Nat := fpCoef x * fpCoef y + weight

/-- The places that the product is moved left (D21): one exactly for normalized operands and a product below 2^95. -/
def productShift (x y : Word60) (weight : Nat) : Nat :=
  if (fpNorm x && fpNorm y) = true ∧ roundedProduct x y weight < 2 ^ 95 then 1 else 0

/-- The product as it is halved: moved left where it is to be. -/
def shiftedProduct (x y : Word60) (weight : Nat) : Nat := roundedProduct x y weight * 2 ^ productShift x y weight

theorem productShift_le (x y : Word60) (weight : Nat) : productShift x y weight ≤ 1 := by
  unfold productShift
  split <;> decide

/-- The product of two coefficients and a round bit fits in 96 bits. -/
theorem roundedProduct_lt (x y : Word60) (hw : weight ≤ 2 ^ 47) : roundedProduct x y weight < 2 ^ 96 := by
  have hx := fpCoef_lt x
  have hy := fpCoef_lt y
  have hprod : fpCoef x * fpCoef y ≤ (2 ^ 48 - 1) * (2 ^ 48 - 1) := Nat.mul_le_mul (by omega) (by omega)
  unfold roundedProduct
  omega

/-- So does the product moved left, which then was below 2^95. -/
theorem shiftedProduct_lt (x y : Word60) (hw : weight ≤ 2 ^ 47) : shiftedProduct x y weight < 2 ^ 96 := by
  have hlt := roundedProduct_lt x y hw
  unfold shiftedProduct productShift
  split <;> omega

/-- The product of normalized operands has, moved where it is to be, the highest of its 96 bits. -/
theorem le_shiftedProduct (hnorm : (fpNorm x && fpNorm y) = true) : 2 ^ 95 ≤ shiftedProduct x y weight := by
  obtain ⟨hx, hy⟩ := Bool.and_eq_true_iff.1 hnorm
  have hprod : 2 ^ 47 * 2 ^ 47 ≤ fpCoef x * fpCoef y := Nat.mul_le_mul ((fpNorm_iff x).1 hx) ((fpNorm_iff y).1 hy)
  have hle : 2 ^ 94 ≤ roundedProduct x y weight := by
    unfold roundedProduct
    omega
  unfold shiftedProduct productShift
  by_cases hsmall : roundedProduct x y weight < 2 ^ 95
  · rw [if_pos ⟨hnorm, hsmall⟩]
    omega
  · rw [if_neg (fun h => hsmall h.2)]
    omega

/-- The unit packs one half of the shifted product, with the sign of the product and the exponent lowered by the shift. -/
theorem fmul_num (hx : fpClass x = .num) (hy : fpClass y = .num) {dp : Bool} {e : Int}
    (he : fpExp x + fpExp y + (if dp then 0 else 48) = e) (hlow : -1022 ≤ e) (hhigh : e ≤ 1023) :
    (fmul x y dp weight).1 = fpPack (x.msb != y.msb) (e - productShift x y weight)
      (if dp then shiftedProduct x y weight % 2 ^ 48 else shiftedProduct x y weight / 2 ^ 48) := by
  simp only [fmul, specialMul_num hx hy, he, if_neg (Int.not_lt.2 hhigh), if_neg (Int.not_lt.2 hlow)]
  unfold shiftedProduct productShift roundedProduct
  by_cases hshift : (fpNorm x && fpNorm y) = true ∧ fpCoef x * fpCoef y + weight < 2 ^ 95
  · rw [if_pos hshift, Bool.and_eq_true_iff.2 ⟨hshift.1, decide_eq_true hshift.2⟩, if_pos rfl, if_pos rfl, pow_one, Nat.mul_comm 2]
    cases dp <;> rfl
  · have hno : (fpNorm x && fpNorm y && decide (fpCoef x * fpCoef y + weight < 2 ^ 95)) = false := by
      rw [← Bool.not_eq_true, Bool.and_eq_true, decide_eq_true_eq]
      exact hshift
    rw [if_neg hshift, hno, pow_zero, Nat.mul_one, Nat.cast_zero, Int.sub_zero]
    cases dp <;> rfl

/-- 40 and 41: sign, exponent and coefficient of the upper half. -/
theorem fmul_upper (hx : fpClass x = .num) (hy : fpClass y = .num) (hlow : -1022 ≤ fpExp x + fpExp y + 48)
    (hhigh : fpExp x + fpExp y + 48 ≤ 1023) (hw : weight ≤ 2 ^ 47) :
    fpCoef (fmul x y false weight).1 = shiftedProduct x y weight / 2 ^ 48
      ∧ fpExp (fmul x y false weight).1 = fpExp x + fpExp y + 48 - productShift x y weight
      ∧ (fmul x y false weight).1.msb = (x.msb != y.msb) := by
  have hlt := shiftedProduct_lt x y hw
  have hle := productShift_le x y weight
  rw [fmul_num (e := fpExp x + fpExp y + 48) hx hy rfl hlow hhigh]
  exact fpPack_spec _ (by omega) (by omega) (Nat.div_lt_of_lt_mul hlt)

/-- 42: sign, exponent and coefficient of the lower half. -/
theorem fmul_lower (hx : fpClass x = .num) (hy : fpClass y = .num) (hlow : -1022 ≤ fpExp x + fpExp y)
    (hhigh : fpExp x + fpExp y ≤ 1023) :
    fpCoef (fmul x y true 0).1 = shiftedProduct x y 0 % 2 ^ 48
      ∧ fpExp (fmul x y true 0).1 = fpExp x + fpExp y - productShift x y 0
      ∧ (fmul x y true 0).1.msb = (x.msb != y.msb) := by
  have hle := productShift_le x y 0
  rw [fmul_num hx hy (Int.add_zero _) hlow hhigh]
  exact fpPack_spec _ (by omega) (by omega) (Nat.mod_lt _ (Nat.two_pow_pos 48))

/-- The round bit of 41 by the operands and RMUL_UNNORM_ROUND (D22). -/
theorem roundWeight_spec (s : State) (x y : Word60) :
    (roundWeight s x y = 2 ^ 46 ∨ roundWeight s x y = 2 ^ 47)
      ∧ ((fpNorm x && fpNorm y) = true ∨ s.cfg.rmulRound = .quarter → roundWeight s x y = 2 ^ 46)
      ∧ ((fpNorm x && fpNorm y) = false → s.cfg.rmulRound = .half → roundWeight s x y = 2 ^ 47) := by
  unfold roundWeight roundWeight41
  cases (fpNorm x && fpNorm y)
  · cases s.cfg.rmulRound
    · simp
    · simp
    · cases Config.drawBool s.tick .roundBit <;> simp
  · simp

/-- Settles O21: both halves are of one shifted product. -/
theorem productHalvesHoldTheExactProduct : Obligations.ProductHalvesHoldTheExactProduct := by
  rintro s i j k x y normal rfl rfl hx hy rfl hhigh
  refine ⟨fun hlow => ⟨_, _, rfl, rfl, productShift (getX s j) (getX s k) 0, rfl, ?_⟩,
    fun hlow => ⟨_, rfl, roundWeight s (getX s j) (getX s k),
      productShift (getX s j) (getX s k) (roundWeight s (getX s j) (getX s k)), ?_⟩⟩
  · obtain ⟨hcoefU, hexpU, hsignU⟩ := fmul_upper (weight := 0) hx hy (by omega) hhigh (by decide)
    obtain ⟨hcoefL, hexpL, hsignL⟩ := fmul_lower hx hy hlow (by omega)
    rw [getX_deliver, getX_deliver, fpNorm_iff, hcoefU, hcoefL]
    exact ⟨hexpU, hexpL, Nat.div_add_mod' _ _, hsignU, hsignL,
      fun hnorm => (Nat.le_div_iff_mul_le (by decide)).2 (le_shiftedProduct hnorm)⟩
  · obtain ⟨hvalues, hquarter, hhalf⟩ := roundWeight_spec s (getX s j) (getX s k)
    have hw : roundWeight s (getX s j) (getX s k) ≤ 2 ^ 47 := by omega
    obtain ⟨hcoef, hexp, hsign⟩ := fmul_upper hx hy hlow hhigh hw
    rw [getX_deliver]
    exact ⟨hvalues, hquarter, hhalf, rfl, hexp, hcoef, hsign⟩

/-! ### The Divide unit -/

/-- The dividend's coefficient in half units, with the round bit of 45. -/
def dividend (x : Word60) (rnd : Bool) : Nat := 2 * fpCoef x + if rnd then 1 else 0

/-- The place that the quotient is moved right: one where it would not fit in 48 bits. -/
def quotientShift (x y : Word60) : Nat := if fpCoef y ≤ fpCoef x then 1 else 0

theorem quotientShift_le (x y : Word60) : quotientShift x y ≤ 1 := by
  unfold quotientShift
  split <;> decide

/-- The quotient reaches a power of two times 2^48 as the coefficients compare: the round bit, half a unit, does not matter. -/
theorem le_quotient_iff (x : Word60) (rnd : Bool) (n : Nat) {c : Nat} (hc : c ≠ 0) :
    2 ^ n * 2 ^ 48 ≤ dividend x rnd * 2 ^ 48 / (2 * c) ↔ 2 ^ n * c ≤ fpCoef x := by
  have hcomm : 2 ^ n * 2 ^ 48 * (2 * c) = 2 * (2 ^ n * c) * 2 ^ 48 := by ring
  rw [Nat.le_div_iff_mul_le (by omega), hcomm, Nat.mul_le_mul_right_iff (by decide), dividend]
  split <;> omega

/-- A quotient of 49 bits, or none, is where the divisor's coefficient is not the larger. -/
theorem quotient_overflows (x y : Word60) (rnd : Bool) :
    (decide (fpCoef y = 0) || decide (2 ^ 48 ≤ dividend x rnd * 2 ^ 48 / (2 * fpCoef y))) = decide (fpCoef y ≤ fpCoef x) := by
  by_cases hc : fpCoef y = 0
  · rw [hc]
    simp
  · have h := le_quotient_iff x rnd 0 hc
    rw [pow_zero, Nat.one_mul, Nat.one_mul] at h
    rw [decide_eq_false hc, Bool.false_or, decide_eq_decide.2 h]

/-- The divide fault, a quotient too large after its correction, is where it is at most half the dividend's. -/
theorem quotient_faults (x y : Word60) (rnd : Bool) :
    (decide (fpCoef y = 0) || decide (2 ^ 48 ≤ dividend x rnd * 2 ^ 48 / (2 * fpCoef y) / 2 ^ quotientShift x y))
      = decide (2 * fpCoef y ≤ fpCoef x) := by
  by_cases hc : fpCoef y = 0
  · rw [hc]
    simp
  rw [decide_eq_false hc, Bool.false_or, decide_eq_decide, Nat.le_div_iff_mul_le (Nat.two_pow_pos _), Nat.mul_comm,
    le_quotient_iff x rnd _ hc, quotientShift]
  split <;> omega

/-- Where the exponent stays in range the unit packs the corrected quotient, or finds the divide fault. -/
theorem fdiv_num (hx : fpClass x = .num) (hy : fpClass y = .num) (rnd : Bool) (hlow : -1023 ≤ fpExp x - fpExp y - 48)
    (hhigh : fpExp x - fpExp y - 47 ≤ 1023) :
    fdiv x y rnd = if 2 * fpCoef y ≤ fpCoef x then fpInd
      else (fpPack (x.msb != y.msb) (fpExp x - fpExp y - 48 + quotientShift x y)
        (dividend x rnd * 2 ^ 48 / (2 * fpCoef y) / 2 ^ quotientShift x y), none) := by
  have hle := quotientShift_le x y
  have hdividend : 2 * fpCoef x + (if rnd = true then 1 else 0) = dividend x rnd := rfl
  have hcorrected (q : Nat) : (if fpCoef y ≤ fpCoef x then q / 2 else q) = q / 2 ^ quotientShift x y := by
    unfold quotientShift
    split <;> simp
  have hraised : (if fpCoef y ≤ fpCoef x then 1 else 0 : Int) = quotientShift x y := by
    unfold quotientShift
    split <;> rfl
  have hnotover : ¬ 1023 < fpExp x - fpExp y - 48 + (quotientShift x y : Int) := by omega
  have hnotunder : ¬ fpExp x - fpExp y - 48 + (quotientShift x y : Int) < -1023 := by omega
  simp only [fdiv, specialDiv_num hx hy, hdividend, quotient_overflows, decide_eq_true_eq, hcorrected, hraised, quotient_faults,
    if_neg hnotover, if_neg hnotunder]

/-- The packed quotient is cut off in its last bit. -/
theorem fdiv_quotient (hx : fpClass x = .num) (hy : fpClass y = .num) (rnd : Bool) (hlow : -1023 ≤ fpExp x - fpExp y - 48)
    (hhigh : fpExp x - fpExp y - 47 ≤ 1023) (hfit : fpCoef x < 2 * fpCoef y) :
    fpCoef (fdiv x y rnd).1 = dividend x rnd * 2 ^ 48 / (2 * fpCoef y * 2 ^ quotientShift x y)
      ∧ fpExp (fdiv x y rnd).1 = fpExp x - fpExp y - 48 + quotientShift x y
      ∧ (fdiv x y rnd).1.msb = (x.msb != y.msb) := by
  have hle := quotientShift_le x y
  have hlt := quotient_faults x y rnd
  rw [decide_eq_false (Nat.not_le.2 hfit), Bool.or_eq_false_iff, decide_eq_false_iff_not, decide_eq_false_iff_not, Nat.not_le] at hlt
  rw [fdiv_num hx hy rnd hlow hhigh, if_neg (Nat.not_le.2 hfit), ← Nat.div_div_eq_div_mul _ (2 * fpCoef y)]
  exact fpPack_spec _ (by omega) (by omega) hlt.2

/-- Settles O22: the quotient is a division of the dividend's coefficient, in half units. -/
theorem quotientIsExactToItsLastBit : Obligations.QuotientIsExactToItsLastBit := by
  rintro s ins i j k x y m rfl rfl hins hx hy hlow hhigh
  obtain ⟨rnd, hfloats, rfl⟩ : ∃ rnd, FloatsTo s ins i (fdiv (getX s j) (getX s k) rnd) ∧ m = dividend (getX s j) rnd := by
    rcases hins with ⟨rfl, rfl⟩ | ⟨rfl, rfl⟩
    · exact ⟨false, .fx44 i j k, rfl⟩
    · exact ⟨true, .rx45 i j k, rfl⟩
  refine ⟨_, exec_of_floatsTo hfloats, fun hfit => ⟨quotientShift (getX s j) (getX s k), rfl, ?_⟩, fun hfault => ?_⟩
  · obtain ⟨hcoef, hexp, hsign⟩ := fdiv_quotient hx hy rnd hlow hhigh hfit
    have hpos : 0 < 2 * fpCoef (getX s k) * 2 ^ quotientShift (getX s j) (getX s k) := 
      Nat.mul_pos (by omega) (Nat.two_pow_pos _)
    rw [getX_deliver, hcoef, Nat.mul_assoc _ (2 * _), Nat.mul_assoc (_ + 1) (2 * _)]
    exact ⟨hexp, Nat.div_mul_le_self _ _, (Nat.div_lt_iff_lt_mul hpos).1 (Nat.lt_succ_self _), hsign⟩
  · rw [getX_deliver, flag_deliver, fdiv_num hx hy rnd hlow hhigh, if_pos hfault]
    exact ⟨rfl, rfl⟩

end Sys2Proof.Machine
end

section
/-!
Sums of finite operands (43_cpu_floating.md R225, R230 to R235) whose exponents differ by at most 47. Every sum is a whole number
of half units of the smaller operand; the accumulator holds it exactly, moved left, and both halves are packed from it.
-/

namespace Sys2Proof.Machine

open Sys2Proof

variable {x y k : Word60} {d : Nat}

/-! ### Exponents of finite operands -/

theorem le_fpExp (w : Word60) : -1023 ≤ fpExp w := by
  have h := natAbs_ocVal_lt (by decide) (fpExp11 w)
  unfold fpExp
  omega

/-- Exponent 1023 is that of an infinite word. -/
theorem fpExp_le_of_finite {w : Word60} (h : fpClass w ≠ .inf) : fpExp w ≤ 1022 := by
  have hpos (v : Word60) (hv : fpClass v ≠ .inf) (hsign : v.msb = false) : fpExp v ≤ 1022 := by
    have htop : fpTop v ≠ 0o3777 := by
      intro htop
      simp [fpClass, htop] at hv
    have hlt : v.toNat < 2 ^ 59 := by simpa [BitVec.msb_eq_decide] using hsign
    have hfield : fpTop v < 2 ^ 11 := by
      rw [fpTop]
      omega
    rw [fpExp_of_pos hsign]
    split <;> omega
  cases hsign : w.msb
  · exact hpos w h hsign
  · rw [← fpExp_not]
    exact hpos _ (by rwa [fpClass_not]) (by rw [msb_not60, hsign, Bool.not_true])

theorem specialAdd_finite (hxd : fpClass x ≠ .ind) (hxf : fpClass x ≠ .inf) (hyd : fpClass y ≠ .ind) (hyf : fpClass y ≠ .inf) :
    specialAdd x y = none := by
  unfold specialAdd
  cases hx : fpClass x with
  | ind => exact absurd hx hxd
  | inf => exact absurd hx hxf
  | zero | num =>
    cases hy : fpClass y with
    | ind => exact absurd hy hyd
    | inf => exact absurd hy hyf
    | zero | num => rfl

/-! ### The accumulator -/

/-- An operand with its round bit, in half units: shifted right by at most 47 places in the accumulator it loses no bit. -/
theorem signed_accumulator_shifted (w : Word60) (r : Bool) (hd : d ≤ 47) :
    (if w.msb = true then -(((fpCoef w * 2 ^ 48 + (if r = true then 2 ^ 47 else 0)) / 2 ^ d : Nat) : Int)
      else (((fpCoef w * 2 ^ 48 + (if r = true then 2 ^ 47 else 0)) / 2 ^ d : Nat) : Int))
      = roundedCoef w r * 2 ^ (47 - d) := by
  have hsplit : (2 : Nat) ^ 47 = 2 ^ (47 - d) * 2 ^ d := by rw [← pow_add, Nat.sub_add_cancel hd]
  have hwhole : fpCoef w * 2 ^ 48 + (if r = true then 2 ^ 47 else 0) = (2 * fpCoef w + r.toNat) * 2 ^ (47 - d) * 2 ^ d := by
    rw [Nat.mul_assoc, ← hsplit]
    cases r <;> simp <;> ring
  rw [hwhole, Nat.mul_div_cancel _ (Nat.two_pow_pos d)]
  unfold roundedCoef
  split <;> push_cast <;> ring

/-- The operand that is not shifted. -/
theorem signed_accumulator (w : Word60) (r : Bool) :
    (if w.msb = true then -((fpCoef w * 2 ^ 48 + (if r = true then 2 ^ 47 else 0) : Nat) : Int)
      else ((fpCoef w * 2 ^ 48 + (if r = true then 2 ^ 47 else 0) : Nat) : Int)) = roundedCoef w r * 2 ^ 47 := by
  have h := signed_accumulator_shifted w r (Nat.zero_le 47)
  rwa [pow_zero, Nat.div_one] at h

/-- The magnitude of a coefficient in half units. -/
theorem natAbs_roundedCoef_lt (w : Word60) (r : Bool) : (roundedCoef w r).natAbs < 2 ^ 49 := by
  have h := fpCoef_lt w
  have hr := Bool.toNat_le r
  unfold roundedCoef
  split <;> omega

/-! ### The exact sum -/

/-- The operand of the larger exponent, the second one where they are equal (R225). -/
def larger (x k : Word60) : Word60 := if fpExp x ≤ fpExp k then k else x

/-- The other operand. -/
def smaller (x k : Word60) : Word60 := if fpExp x ≤ fpExp k then x else k

/-- How far the smaller operand is shifted. -/
def exponentGap (x k : Word60) : Nat := (fpExp (larger x k) - fpExp (smaller x k)).toNat

theorem fpExp_larger (x k : Word60) : fpExp (larger x k) = max (fpExp x) (fpExp k) := by
  unfold larger
  split <;> omega

theorem fpExp_smaller (x k : Word60) : fpExp (smaller x k) = min (fpExp x) (fpExp k) := by
  unfold smaller
  split <;> omega

theorem exponentGap_eq (x k : Word60) :
    exponentGap x k = (max (fpExp x) (fpExp k) - min (fpExp x) (fpExp k)).toNat := by
  rw [exponentGap, fpExp_larger, fpExp_smaller]

/-- From the smaller exponent to that of a result moved right by `q` places. -/
theorem toNat_gap_add (x k : Word60) (q : Nat) :
    (max (fpExp x) (fpExp k) + q - min (fpExp x) (fpExp k)).toNat = exponentGap x k + q := by
  rw [exponentGap_eq]
  omega

/-- The sum, in half units of the smaller operand, with the round bits of 34 and 35 if `rnd`. -/
def halfUnits (x k : Word60) (rnd second : Bool) : Int :=
  roundedCoef (larger x k) rnd * 2 ^ exponentGap x k + roundedCoef (smaller x k) (rnd && second)

/-- The same sum operand by operand, each at its own exponent. -/
theorem halfUnits_eq (x k : Word60) (rnd second : Bool) : halfUnits x k rnd second =
    roundedCoef x (rnd && (second || decide (fpExp k < fpExp x))) * 2 ^ (fpExp x - min (fpExp x) (fpExp k)).toNat
      + roundedCoef k (rnd && (second || decide (fpExp x ≤ fpExp k))) * 2 ^ (fpExp k - min (fpExp x) (fpExp k)).toNat := by
  unfold halfUnits exponentGap larger smaller
  by_cases h : fpExp x ≤ fpExp k
  · simp only [if_pos h, min_eq_left h, decide_eq_true h, decide_eq_false (Int.not_lt.2 h), Bool.or_true, Bool.or_false,
      Bool.and_true, sub_self, Int.toNat_zero, pow_zero, mul_one]
    ring
  · simp only [if_neg h, min_eq_right (Int.not_le.1 h).le, decide_eq_false h, decide_eq_true (Int.not_le.1 h), Bool.or_true,
      Bool.or_false, Bool.and_true, sub_self, Int.toNat_zero, pow_zero, mul_one]

theorem natAbs_halfUnits_lt (x k : Word60) (rnd second : Bool) :
    (halfUnits x k rnd second).natAbs < 2 ^ (50 + exponentGap x k) := by
  have ha := natAbs_roundedCoef_lt (larger x k) rnd
  have hb := natAbs_roundedCoef_lt (smaller x k) (rnd && second)
  calc (halfUnits x k rnd second).natAbs
      ≤ (roundedCoef (larger x k) rnd).natAbs * 2 ^ exponentGap x k + (roundedCoef (smaller x k) (rnd && second)).natAbs := by
        refine (Int.natAbs_add_le _ _).trans_eq ?_
        rw [Int.natAbs_mul, Int.natAbs_pow]
        rfl
    _ < 2 ^ 49 * 2 ^ exponentGap x k + 2 ^ 49 * 2 ^ exponentGap x k := by
        have hone := Nat.one_le_two_pow (n := exponentGap x k)
        nlinarith
    _ = 2 ^ (50 + exponentGap x k) := by ring

/-! ### Sign and magnitude in the accumulator -/

/-- The sign of a sum: a zero one is negative only if both operands are (D19). -/
def sumSign (x k : Word60) (n : Int) : Bool := if n = 0 then x.msb && k.msb else decide (n < 0)

/-- One where the sum overflows the accumulator, and is moved right. -/
def sumShift (d : Nat) (n : Int) : Nat := if 2 ^ (49 + d) ≤ n.natAbs then 1 else 0

/-- The magnitude of the sum in the accumulator of 96 bits, after the correction. -/
def sumMagnitude (d : Nat) (n : Int) : Nat := n.natAbs * 2 ^ (47 - d) / 2 ^ sumShift d n

theorem sumSign_scaled (x k : Word60) (n : Int) (q : Nat) :
    (if n * 2 ^ q = 0 then x.msb && k.msb else decide (n * 2 ^ q < 0)) = sumSign x k n := by
  have hpos : (0 : Int) < 2 ^ q := Int.pow_pos (by decide)
  simp only [sumSign, mul_eq_zero, hpos.ne', or_false, ← Int.not_le, mul_nonneg_iff_of_pos_right hpos]

theorem signed_natAbs (x k : Word60) (n : Int) :
    (if sumSign x k n = true then -(n.natAbs : Int) else n.natAbs) = n := by
  rcases eq_or_ne n 0 with rfl | h0
  · simp
  · simp only [sumSign, if_neg h0, decide_eq_true_eq]
    split <;> omega

theorem natAbs_scaled (n : Int) (q : Nat) : (n * 2 ^ q).natAbs = n.natAbs * 2 ^ q := by
  rw [Int.natAbs_mul, Int.natAbs_pow]
  rfl

theorem overflows_iff (n : Int) (hd : d ≤ 47) : 2 ^ 96 ≤ (n * 2 ^ (47 - d)).natAbs ↔ 2 ^ (49 + d) ≤ n.natAbs := by
  have hsplit : 2 ^ 96 = 2 ^ (49 + d) * 2 ^ (47 - d) := by
    rw [← pow_add]
    congr 1
    omega
  rw [natAbs_scaled, hsplit, Nat.mul_le_mul_right_iff (Nat.two_pow_pos _)]

theorem corrected_exponent (e n : Int) (hd : d ≤ 47) :
    (if 2 ^ 96 ≤ (n * 2 ^ (47 - d)).natAbs then e + 1 else e) = e + sumShift d n := by
  simp only [overflows_iff n hd, sumShift]
  split <;> simp

theorem corrected_magnitude (n : Int) (hd : d ≤ 47) :
    (if 2 ^ 96 ≤ (n * 2 ^ (47 - d)).natAbs then (n * 2 ^ (47 - d)).natAbs / 2 else (n * 2 ^ (47 - d)).natAbs)
      = sumMagnitude d n := by
  simp only [overflows_iff n hd, sumMagnitude, sumShift]
  rw [natAbs_scaled]
  split <;> simp

theorem sumShift_le (d : Nat) (n : Int) : sumShift d n ≤ 1 := by
  unfold sumShift
  split <;> decide

/-- The correction brings the sum back to 96 bits. -/
theorem sumMagnitude_lt {n : Int} (hd : d ≤ 47) (hn : n.natAbs < 2 ^ (50 + d)) : sumMagnitude d n < 2 ^ 96 := by
  have hbound : n.natAbs < 2 ^ (49 + d) * 2 ^ sumShift d n := by
    unfold sumShift
    split_ifs with hover
    · rwa [← pow_add, show 49 + d + 1 = 50 + d by omega]
    · rw [pow_zero, Nat.mul_one]
      exact Nat.not_le.1 hover
  refine Nat.div_lt_of_lt_mul ?_
  calc n.natAbs * 2 ^ (47 - d) < 2 ^ (49 + d) * 2 ^ sumShift d n * 2 ^ (47 - d) :=
        Nat.mul_lt_mul_of_pos_right hbound (Nat.two_pow_pos _)
    _ = 2 ^ sumShift d n * 2 ^ (49 + d + (47 - d)) := by rw [pow_add 2 (49 + d)]; ring
    _ = 2 ^ sumShift d n * 2 ^ 96 := by rw [show 49 + d + (47 - d) = 96 by omega]

/-- The correction loses no bit of a sum without round bits, which is a whole number of units. -/
theorem sumMagnitude_exact {n : Int} (heven : 2 ∣ n) :
    sumMagnitude d n * 2 ^ sumShift d n = n.natAbs * 2 ^ (47 - d) := by
  refine Nat.div_mul_cancel (Dvd.dvd.mul_right ?_ _)
  have hhalf : 2 ∣ n.natAbs := Int.natCast_dvd.1 heven
  unfold sumShift
  split
  · exact hhalf
  · exact Nat.one_dvd _

/-- The upper half is the sum cut off. -/
theorem upper_half (n : Int) (hd : d ≤ 47) : sumMagnitude d n / 2 ^ 48 = n.natAbs / 2 ^ (d + sumShift d n + 1) := by
  have hsplit : 2 ^ sumShift d n * 2 ^ 48 = 2 ^ (d + sumShift d n + 1) * 2 ^ (47 - d) := by
    rw [← pow_add, ← pow_add]
    congr 1
    omega
  rw [sumMagnitude, Nat.div_div_eq_div_mul, hsplit, Nat.mul_div_mul_right _ _ (Nat.two_pow_pos _)]

/-! ### The unit -/

theorem larger_and_smaller_msb (x k : Word60) : ((larger x k).msb && (smaller x k).msb) = (x.msb && k.msb) := by
  unfold larger smaller
  split
  · exact Bool.and_comm _ _
  · rfl

theorem larger_bne_smaller_msb (x k : Word60) : ((larger x k).msb != (smaller x k).msb) = (x.msb != k.msb) := by
  unfold larger smaller
  split
  · exact bne_comm
  · rfl

/-- Where the exponents are near, the Add unit packs the corrected sum. -/
theorem faddNum_near (far : Bool) (x y k : Word60) (dp rnd : Bool) (hd : exponentGap x k ≤ 47)
    (hlow : dp = true → -1023 ≤ max (fpExp x) (fpExp k) - 48) (n : Int)
    (hn : n = halfUnits x k rnd (fpNorm x && fpNorm y || (x.msb != k.msb))) :
    (faddNum far x y k dp rnd).1 =
      if dp then fpPack (sumSign x k n) (max (fpExp x) (fpExp k) + sumShift (exponentGap x k) n - 48)
        (sumMagnitude (exponentGap x k) n % 2 ^ 48)
      else fpPack (sumSign x k n) (max (fpExp x) (fpExp k) + sumShift (exponentGap x k) n)
        (sumMagnitude (exponentGap x k) n / 2 ^ 48) := by
  have hl : (if fpExp x ≤ fpExp k then k else x) = larger x k := rfl
  have hs : (if fpExp x ≤ fpExp k then x else k) = smaller x k := rfl
  have h128 : ¬ 128 ≤ exponentGap x k := by omega
  have h48 : ¬ 48 ≤ exponentGap x k := by omega
  simp only [faddNum, decide_eq_true_eq, hl, hs, larger_bne_smaller_msb, fpExp_larger, fpExp_smaller, ← exponentGap_eq,
    if_neg h128, signed_accumulator, signed_accumulator_shifted _ _ hd, larger_and_smaller_msb]
  have hover : ¬ (dp && decide (max (fpExp x) (fpExp k) - 48 < -1023)) = true := by
    rw [Bool.and_eq_true, decide_eq_true_eq]
    exact fun h => absurd (hlow h.1) (Int.not_le.2 h.2)
  have hsum : roundedCoef (larger x k) rnd * 2 ^ 47
      + roundedCoef (smaller x k) (rnd && (fpNorm x && fpNorm y || x.msb != k.msb)) * 2 ^ (47 - exponentGap x k)
        = n * 2 ^ (47 - exponentGap x k) := by
    have hsplit : (2 : Int) ^ 47 = 2 ^ exponentGap x k * 2 ^ (47 - exponentGap x k) := by
      rw [← pow_add, Nat.add_sub_cancel' hd]
    rw [hn, halfUnits, hsplit]
    ring
  simp only [hsum, if_neg hover, decide_eq_false h48, Bool.and_false, Bool.false_eq_true, if_false, sumSign_scaled,
    corrected_exponent _ n hd, corrected_magnitude n hd]
  split <;> rfl

/-! ### Both halves, and the rounded upper half -/

theorem fpExp_addend (y : Word60) (sub : Bool) : fpExp (addend y sub) = fpExp y := by
  cases sub
  · rfl
  · exact fpExp_not y

theorem roundedCoef_addend (y : Word60) (sub r : Bool) :
    roundedCoef (addend y sub) r = (if sub then -1 else 1) * roundedCoef y r := by
  have hcoef : fpCoef (addend y sub) = fpCoef y := by
    cases sub
    · rfl
    · exact fpCoef_not y
  simp only [roundedCoef, msb_addend, hcoef]
  cases sub <;> cases y.msb <;> simp

/-- Without a round bit the half units are even. -/
theorem roundedCoef_false (w : Word60) : roundedCoef w false = 2 * signedCoef w := by
  unfold roundedCoef signedCoef
  split <;> simp

/-- A rounded sum of negative operands is negative, not zero. -/
theorem sumSign_rounded (x k : Word60) (second : Bool) :
    sumSign x k (halfUnits x k true second) = decide (halfUnits x k true second < 0) := by
  unfold sumSign
  split_ifs with h0
  · rw [h0, ← larger_and_smaller_msb, decide_eq_false (Int.lt_irrefl 0), ← Bool.not_eq_true, Bool.and_eq_true]
    rintro ⟨hl, hs⟩
    have hlarge : roundedCoef (larger x k) true < 0 := by
      rw [roundedCoef, if_pos hl, Bool.toNat_true]
      omega
    have hsmall : roundedCoef (smaller x k) (true && second) ≤ 0 := by
      rw [roundedCoef, if_pos hs]
      omega
    have hshifted := mul_neg_of_neg_of_pos hlarge (Int.pow_pos (n := 2) (m := exponentGap x k) (by decide))
    unfold halfUnits at h0
    omega
  · rfl

theorem exponentGap_addend (x y : Word60) (sub : Bool) : exponentGap x (addend y sub) = exponentGap x y := by
  rw [exponentGap_eq, exponentGap_eq, fpExp_addend]

/-- The test of the second round bit, in the operands' own signs (R234, R235). -/
def roundsBoth (x y : Word60) (sub : Bool) : Bool := fpNorm x && fpNorm y || (x.msb != y.msb) != sub

/-- The sum or difference in half units of the smaller operand. -/
def sumUnits (x y : Word60) (sub rnd : Bool) : Int := halfUnits x (addend y sub) rnd (roundsBoth x y sub)

/-- Two finite operands whose exponents differ by at most 47. -/
structure NearFinite (x y : Word60) : Prop where
  definite : fpClass x ≠ .ind ∧ fpClass y ≠ .ind
  finite : fpClass x ≠ .inf ∧ fpClass y ≠ .inf
  gap : exponentGap x y ≤ 47

section NearOperands

variable (h : NearFinite x y)

include h

/-- The corrected magnitude fits in the accumulator, and the exponent in its field. -/
theorem NearFinite.fits (sub rnd : Bool) :
    sumMagnitude (exponentGap x y) (sumUnits x y sub rnd) < 2 ^ 48 * 2 ^ 48
      ∧ sumShift (exponentGap x y) (sumUnits x y sub rnd) ≤ 1
      ∧ -1023 ≤ max (fpExp x) (fpExp y) ∧ max (fpExp x) (fpExp y) ≤ 1022 := by
  have hunits := natAbs_halfUnits_lt x (addend y sub) rnd (roundsBoth x y sub)
  rw [exponentGap_addend] at hunits
  exact ⟨sumMagnitude_lt h.gap hunits, sumShift_le _ _, le_max_of_le_left (le_fpExp x),
    max_le (fpExp_le_of_finite h.finite.1) (fpExp_le_of_finite h.finite.2)⟩

/-- The Add unit on two such operands: the corrected sum, packed by halves. -/
theorem NearFinite.fadd_word (far sub dp rnd : Bool) (hlow : dp = true → -1023 ≤ max (fpExp x) (fpExp y) - 48) :
    (fadd far x y sub dp rnd).1 =
      if dp then fpPack (sumSign x (addend y sub) (sumUnits x y sub rnd))
        (max (fpExp x) (fpExp y) + sumShift (exponentGap x y) (sumUnits x y sub rnd) - 48)
        (sumMagnitude (exponentGap x y) (sumUnits x y sub rnd) % 2 ^ 48)
      else fpPack (sumSign x (addend y sub) (sumUnits x y sub rnd))
        (max (fpExp x) (fpExp y) + sumShift (exponentGap x y) (sumUnits x y sub rnd))
        (sumMagnitude (exponentGap x y) (sumUnits x y sub rnd) / 2 ^ 48) := by
  have hordinary : specialAdd x (addend y sub) = none := by
    refine specialAdd_finite h.definite.1 h.finite.1 ?_ ?_
    · rw [fpClass_addend]
      exact h.definite.2
    · rw [fpClass_addend]
      exact h.finite.2
  have hunits : sumUnits x y sub rnd
      = halfUnits x (addend y sub) rnd (fpNorm x && fpNorm y || (x.msb != (addend y sub).msb)) := by
    rw [sumUnits, roundsBoth, msb_addend, Bool.bne_assoc]
  have hgap := h.gap
  rw [← fpExp_addend y sub] at hlow ⊢
  rw [← exponentGap_addend x y sub] at hgap ⊢
  rw [fadd_num far dp rnd hordinary]
  exact faddNum_near far x y (addend y sub) dp rnd hgap hlow _ hunits

/-- 30, 31, 34 and 35: coefficient, exponent and sign of the upper half. -/
theorem NearFinite.fadd_upper (far sub rnd : Bool) :
    fpCoef (fadd far x y sub false rnd).1 = sumMagnitude (exponentGap x y) (sumUnits x y sub rnd) / 2 ^ 48
      ∧ fpExp (fadd far x y sub false rnd).1
          = max (fpExp x) (fpExp y) + sumShift (exponentGap x y) (sumUnits x y sub rnd)
      ∧ (fadd far x y sub false rnd).1.msb = sumSign x (addend y sub) (sumUnits x y sub rnd) := by
  obtain ⟨hmag, hshift, hlow, hhigh⟩ := h.fits sub rnd
  rw [h.fadd_word far sub false rnd nofun, if_neg Bool.false_ne_true]
  exact fpPack_spec _ (by omega) (by omega) (Nat.div_lt_of_lt_mul hmag)

/-- 32 and 33: coefficient, exponent and sign of the lower half. -/
theorem NearFinite.fadd_lower (far sub : Bool) (hrange : -1023 ≤ max (fpExp x) (fpExp y) - 48) :
    fpCoef (fadd far x y sub true false).1 = sumMagnitude (exponentGap x y) (sumUnits x y sub false) % 2 ^ 48
      ∧ fpExp (fadd far x y sub true false).1
          = max (fpExp x) (fpExp y) + sumShift (exponentGap x y) (sumUnits x y sub false) - 48
      ∧ (fadd far x y sub true false).1.msb = sumSign x (addend y sub) (sumUnits x y sub false) := by
  obtain ⟨-, hshift, -, hhigh⟩ := h.fits sub false
  rw [h.fadd_word far sub true false fun _ => hrange, if_pos rfl]
  exact fpPack_spec _ (by omega) (by omega) (Nat.mod_lt _ (Nat.two_pow_pos 48))

end NearOperands

/-- A sum without round bits is of the coefficients themselves. -/
theorem sumUnits_exact (x y : Word60) (sub : Bool) : sumUnits x y sub false =
    2 * (signedCoef x * 2 ^ (fpExp x - min (fpExp x) (fpExp y)).toNat
      + (if sub then -signedCoef y else signedCoef y) * 2 ^ (fpExp y - min (fpExp x) (fpExp y)).toNat) := by
  rw [sumUnits, halfUnits_eq, Bool.false_and, Bool.false_and, roundedCoef_addend, roundedCoef_false, roundedCoef_false,
    fpExp_addend]
  cases sub <;> simp <;> ring

/-- With round bits it is of the rounded coefficients. -/
theorem sumUnits_rounded (x y : Word60) (sub : Bool) : sumUnits x y sub true =
    roundedCoef x (roundsBoth x y sub || decide (fpExp y < fpExp x)) * 2 ^ (fpExp x - min (fpExp x) (fpExp y)).toNat
      + (if sub then -1 else 1) * roundedCoef y (roundsBoth x y sub || decide (fpExp x ≤ fpExp y))
        * 2 ^ (fpExp y - min (fpExp x) (fpExp y)).toNat := by
  rw [sumUnits, halfUnits_eq, Bool.true_and, Bool.true_and, roundedCoef_addend, fpExp_addend]

/-- The two halves of a sum, put together, are the sum. -/
theorem NearFinite.halves_hold_sum (h : NearFinite x y) (far sub : Bool) (hrange : -1023 ≤ max (fpExp x) (fpExp y) - 48) :
    (signedCoef (fadd far x y sub false false).1 * 2 ^ 48 + signedCoef (fadd far x y sub true false).1)
        * 2 ^ (exponentGap x y + sumShift (exponentGap x y) (sumUnits x y sub false))
      = sumUnits x y sub false * 2 ^ 47 := by
  obtain ⟨hcoefU, -, hsignU⟩ := h.fadd_upper far sub false
  obtain ⟨hcoefL, -, hsignL⟩ := h.fadd_lower far sub hrange
  have heven : 2 ∣ sumUnits x y sub false := ⟨_, sumUnits_exact x y sub⟩
  have hgap := h.gap
  rw [signedCoef, signedCoef, hcoefU, hcoefL, hsignU, hsignL]
  generalize sumUnits x y sub false = n at *
  generalize exponentGap x y = d at *
  have hjoined : ((sumMagnitude d n / 2 ^ 48 : Nat) : Int) * 2 ^ 48 + (sumMagnitude d n % 2 ^ 48 : Nat) = sumMagnitude d n :=
    mod_cast Nat.div_add_mod' _ _
  have hplaced : (sumMagnitude d n : Int) * 2 ^ (d + sumShift d n) = n.natAbs * 2 ^ 47 := by
    calc (sumMagnitude d n : Int) * 2 ^ (d + sumShift d n)
        = (sumMagnitude d n * 2 ^ sumShift d n : Nat) * 2 ^ d := by push_cast; ring
      _ = n.natAbs * 2 ^ (47 - d + d) := by rw [sumMagnitude_exact heven]; push_cast; ring
      _ = n.natAbs * 2 ^ 47 := by rw [Nat.sub_add_cancel hgap]
  calc _ = (if sumSign x (addend y sub) n = true then -(sumMagnitude d n : Int) else sumMagnitude d n)
          * 2 ^ (d + sumShift d n) := by
        rw [← hjoined]
        split <;> ring
    _ = (if sumSign x (addend y sub) n = true then -(n.natAbs : Int) else n.natAbs) * 2 ^ 47 := by
        split
        · rw [neg_mul, hplaced, neg_mul]
        · exact hplaced
    _ = n * 2 ^ 47 := by rw [signed_natAbs]

/-- The floating instructions of a sum or a difference: upper half, lower half, rounded upper half. -/
theorem sum_instructions (s : State) (i j k : Reg) {sub : Bool} {upper lower round : Instr}
    (h : if sub then upper = .fx31 i j k ∧ lower = .dx33 i j k ∧ round = .rx35 i j k
      else upper = .fx30 i j k ∧ lower = .dx32 i j k ∧ round = .rx34 i j k) :
    FloatsTo s upper i (fadd s.cfg.faddFarCopy (getX s j) (getX s k) sub false false)
      ∧ FloatsTo s lower i (fadd s.cfg.faddFarCopy (getX s j) (getX s k) sub true false)
      ∧ FloatsTo s round i (fadd s.cfg.faddFarCopy (getX s j) (getX s k) sub false true) := by
  cases sub
  · obtain ⟨rfl, rfl, rfl⟩ := h
    exact ⟨.fx30 i j k, .dx32 i j k, .rx34 i j k⟩
  · obtain ⟨rfl, rfl, rfl⟩ := h
    exact ⟨.fx31 i j k, .dx33 i j k, .rx35 i j k⟩

/-- Settles O20: both halves and the rounded upper half are packed from one exact sum. -/
theorem sumHalvesHoldTheExactSum : Obligations.SumHalvesHoldTheExactSum := by
  rintro s i j k x y lo hi sub upper lower round rfl rfl hins hxd hxf hyd hyf rfl rfl hgap
  obtain ⟨hupper, hlower, hround⟩ := sum_instructions s i j k hins
  generalize getX s j = x at *
  generalize getX s k = y at *
  have hd : exponentGap x y = (max (fpExp x) (fpExp y) - min (fpExp x) (fpExp y)).toNat := exponentGap_eq x y
  have h : NearFinite x y := ⟨⟨hxd, hyd⟩, ⟨hxf, hyf⟩, by omega⟩
  refine ⟨fun hrange => ⟨_, _, exec_of_floatsTo hupper, exec_of_floatsTo hlower, ?_⟩, ?_⟩
  · obtain ⟨-, hexpU, -⟩ := h.fadd_upper s.cfg.faddFarCopy sub false
    obtain ⟨-, hexpL, -⟩ := h.fadd_lower s.cfg.faddFarCopy sub hrange
    have hsum := h.halves_hold_sum s.cfg.faddFarCopy sub hrange
    have hshift := sumShift_le (exponentGap x y) (sumUnits x y sub false)
    rw [getX_deliver, getX_deliver, hexpU, hexpL]
    refine ⟨by omega, by omega, by omega, ?_⟩
    rw [toNat_gap_add, hsum, sumUnits_exact]
    ring
  · rintro second n rfl rfl
    obtain ⟨hcoef, hexp, hsign⟩ := h.fadd_upper s.cfg.faddFarCopy sub true
    refine ⟨_, exec_of_floatsTo hround, ?_⟩
    rw [getX_deliver, ← roundsBoth, ← sumUnits_rounded, ← hd, hcoef, hsign, hexp]
    refine ⟨?_, ?_, sumSign_rounded x (addend y sub) _⟩
    · rw [sumShift, Nat.cast_ite]
      rfl
    · rw [upper_half _ h.gap, toNat_gap_add]

end Sys2Proof.Machine
end

section
/-!
Long Add, Pass and the population count (44_cpu_longadd_pass_popcount_increment.md R260 to R263), and the set instructions of the
B and X registers (R284 to R299).
-/

namespace Sys2Proof.Machine

open Sys2Proof

/-! ### The population count -/

theorem popCount_eq_card (v : Word60) : popCount v = ((Finset.range 60).filter (fun n => v.getLsbD n = true)).card := by
  rw [popCount, ← List.toFinset_range, ← List.toFinset_filter,
    List.toFinset_card_of_nodup (List.nodup_range.filter _)]

theorem popCount_le (v : Word60) : popCount v ≤ 60 :=
  (List.length_filter_le _ _).trans_eq List.length_range

/-- The count fits in the word that 47 delivers. -/
theorem toNat_popCount (v : Word60) : (BitVec.ofNat 60 (popCount v)).toNat = popCount v := by
  have hle := popCount_le v
  rw [BitVec.toNat_ofNat, Nat.mod_eq_of_lt (by omega)]

/-- Settles O16: the sum and the difference are those of the ones complement adder at 60 bits, and the count fits in a word. -/
theorem integerSumDifferenceAndCount : Obligations.IntegerSumDifferenceAndCount := by
  intro s i j k
  refine ⟨⟨_, rfl, onlyX_setX s i _, ?sum⟩, ⟨_, rfl, onlyX_setX s i _, ?difference⟩,
    ⟨_, rfl, onlyX_setX s i _, ?count⟩, rfl⟩ <;> rw [getX_setX_same]
  case sum => exact ⟨ocAdd_modEq _ _, ocAdd_eq_allOnes_iff _ _⟩
  case difference => exact ⟨ocSub_modEq _ _, ocSub_eq_allOnes_iff _ _⟩
  case count => rw [toNat_popCount, popCount_eq_card]

/-! ### Set Bi and set Xi -/

/-- A bit of an 18-bit result extended over a word: above bit 17 it is the sign. -/
theorem getLsbD_signExtend60 (r : Word18) {n : Nat} (hn : n < 60) : (r.signExtend 60).getLsbD n = r.getLsbD (min n 17) := by
  rw [BitVec.getLsbD_signExtend, decide_eq_true hn, Bool.true_and]
  split_ifs with hlow
  · rw [min_eq_left (by omega)]
  · rw [min_eq_right (by omega), BitVec.msb_eq_getLsbD_last]

/-- Settles O36: 60 to 67 are `setB`, and 70 to 77 are `setX` of the extended result. -/
theorem setBAndSetXSetOneRegister : Obligations.SetBAndSetXSetOneRegister := by
  refine ⟨fun s ins i r h => ⟨_, exec_of_setsB h, setB_spec s i r⟩,
    fun s ins i r h => ⟨_, exec_of_setsX h, onlyX_setX s i _, fun n hn => ?_⟩⟩
  rw [getX_setX_same]
  exact getLsbD_signExtend60 r hn

end Sys2Proof.Machine
end

section
/-!
Set Ai (44_cpu_longadd_pass_popcount_increment.md R270 to R277, R283): the read for i from 1 to 5, the write for i = 6 and 7, and
what they do where the address is out of range (60_exceptions.md R423, 70_reset_and_hazards.md R489).
-/

namespace Sys2Proof.Machine

open Sys2Proof

section SetAddress

variable {s : State} {i : Reg} {r : Word18}

/-! ### The reference by the register set -/

theorem setAddr_reads (h1 : 1 ≤ i.val) (h5 : i.val ≤ 5) : setAddr s i r = loadX (setAReg s i r) i r := by
  have hne : i ≠ 0 := Fin.pos_iff_ne_zero.1 h1
  rw [setAddr, if_neg hne, if_pos h5]

theorem setAddr_writes (h6 : 6 ≤ i.val) : setAddr s i r = storeX (setAReg s i r) i r := by
  have hne : i ≠ 0 := Fin.pos_iff_ne_zero.1 (Nat.lt_of_lt_of_le (by decide) h6)
  rw [setAddr, if_neg hne, if_neg (by omega)]

/-! ### References in range -/

/-- The read of a word that exists, where no parity error waits. -/
theorem scmRead_delivers (hn : NoParity s) (hx : scmExists s (scmAbs s r) = true) :
    scmDetect (setX s i (scmValue s 0 (scmAbs s r))) (scmAbs s r) = setX s i (memRead s.scm (scmAbs s r).toNat) := by
  rw [scmDetect_none, scmValue_none hn.1 hx]
  exact hn.1

theorem loadX_inRange (hn : NoParity s) (hx : scmExists s (scmAbs s r) = true) (hr : r < s.cpu.fls) :
    loadX s i r = noteRef (setX s i (memRead s.scm (scmAbs s r).toNat)) .done := by
  rw [loadX, if_pos hr, scmRead_delivers hn hx]

/-- SCM Direct Range already set stops the store (60_exceptions.md R423). -/
theorem storeX_suppressed (hr : r < s.cpu.fls) (hflag : flag s .scmDirectRange = true) : storeX s i r = s := by
  rw [storeX, if_pos hr, if_pos hflag]

theorem storeX_inRange (hn : NoParity s) (hr : r < s.cpu.fls) (hflag : flag s .scmDirectRange = false) :
    storeX s i r =
      noteRef (scmPut s (scmAbs s r) (getX s i)) (.store (scmAbs s r) (memRead s.scm (scmAbs s r).toNat)) := by
  have hbad : (scmPut s (scmAbs s r) (getX s i)).scmBad = [] := by
    rw [(scmPut_spec s _ _).1]
    exact hn.1
  rw [storeX, if_pos hr, hflag, if_neg Bool.false_ne_true, scmDetect_none _ hbad]

/-- What a store in range changes: the record of references, and its word unless SCM Direct Range is set. -/
theorem storeX_spec (hn : NoParity s) (hx : scmExists s (scmAbs s r) = true) (hr : r < s.cpu.fls) :
    storeX s i r = { s with scm := (storeX s i r).scm, cpu := { s.cpu with recent := (storeX s i r).cpu.recent } }
      ∧ (∀ n, n ≠ (scmAbs s r).toNat → memRead (storeX s i r).scm n = memRead s.scm n)
      ∧ memRead (storeX s i r).scm (scmAbs s r).toNat =
          (if flag s .scmDirectRange = true then memRead s.scm (scmAbs s r).toNat else getX s i) := by
  cases hflag : flag s .scmDirectRange
  · obtain ⟨hframe, hothers, hword⟩ := scmPut_spec s (scmAbs s r) (getX s i)
    rw [if_pos hx] at hword
    rw [storeX_inRange hn hr hflag, if_neg Bool.false_ne_true]
    generalize scmPut s (scmAbs s r) (getX s i) = t at hframe hothers hword ⊢
    refine ⟨?_, hothers, hword⟩
    rw [hframe]
    rfl
  · rw [storeX_suppressed hr hflag, if_pos rfl]
    exact ⟨rfl, fun _ _ => rfl, rfl⟩

/-! ### References out of range -/

/-- The word left in Xi by a reference out of range: its own for a write, else zeros or the word read, by NOTE8_FCO. -/
def outOfRangeWord (s : State) (i : Reg) (r : Word18) : Word60 :=
  if 6 ≤ i.val then getX s i else if s.cfg.note8Fco = true then 0 else memRead s.scm (scmAbs s r).toNat

theorem setX_getX (s : State) (i : Reg) : setX s i (getX s i) = s := by
  simp only [setX, getX, Fin.getElem_fin, Vector.set_getElem_self]

theorem loadX_outOfRange (hn : NoParity s) (hx : scmExists s (scmAbs s r) = true) (hr : s.cpu.fls ≤ r) (h5 : i.val ≤ 5) :
    loadX s i r = rangeLate (setX s i (outOfRangeWord s i r)) := by
  rw [loadX, if_neg (BitVec.not_lt.2 hr), outOfRangeWord, if_neg (show ¬6 ≤ i.val by omega), scmRead_delivers hn hx]
  split_ifs <;> rfl

theorem storeX_outOfRange (hr : s.cpu.fls ≤ r) (h6 : 6 ≤ i.val) :
    storeX s i r = rangeLate (setX s i (outOfRangeWord s i r)) := by
  rw [storeX, if_neg (BitVec.not_lt.2 hr), outOfRangeWord, if_pos h6, setX_getX]

/-- Read or write, a reference out of range leaves its word in Xi and then sets the flag. -/
theorem setAddr_outOfRange (hi : i ≠ 0) (hn : NoParity s) (hx : scmExists s (scmAbs s r) = true) (hr : s.cpu.fls ≤ r) :
    setAddr s i r = rangeLate (setX (setAReg s i r) i (outOfRangeWord s i r)) := by
  rcases Nat.lt_or_ge i.val 6 with h6 | h6
  · rw [setAddr_reads (Fin.pos_iff_ne_zero.2 hi) (by omega)]
    exact loadX_outOfRange (s := setAReg s i r) hn hx hr (by omega)
  · rw [setAddr_writes h6]
    exact storeX_outOfRange (s := setAReg s i r) hr h6

/-- SCM Direct Range set by a reference: the flag with whatever slip, and the effect on earlier stores. -/
theorem rangeLate_spec (s : State) : ∃ scm recent slip,
    rangeLate s = { s with scm := scm, cpu := { s.cpu with
        psd := withFlags s [.scmDirectRange], slip := slip, recent := recent } }
      ∧ RangeEffect s (rangeLate s) := by
  obtain ⟨hframe, heffect⟩ := beforeRange_spec s
  obtain ⟨slip, hslip⟩ := raiseLate_flagged (beforeRange s) .scmDirectRange
  refine ⟨(beforeRange s).scm, (beforeRange s).cpu.recent, slip, ?_, ?_⟩
  · rw [rangeLate, hslip]
    generalize beforeRange s = t at hframe
    rw [hframe]
    rfl
  · rw [rangeLate, hslip]
    exact heffect

end SetAddress

/-- Settles O33: with i = 0 there is no reference, and with i from 1 to 5 in range it is a read. -/
theorem setAReadsStorage : Obligations.SetAReadsStorage := by
  refine ⟨fun s ins r h => ⟨_, exec_of_setsA h, getA_setAReg_same s 0 r, fun q hq => getA_setAReg_other s 0 q r hq, rfl⟩,
    fun s ins i r h h1 h5 hn hr hx => ?_⟩
  have hread : setAddr s i r = noteRef (setX (setAReg s i r) i (memRead s.scm (scmAbs s r).toNat)) .done := by
    rw [setAddr_reads h1 h5]
    exact loadX_inRange (s := setAReg s i r) hn hx hr
  exact ⟨_, (exec_of_setsA h).trans (congrArg Host.Outcome.next hread), getA_setAReg_same s i r, getX_setX_same s i _,
    fun q hq => ⟨getA_setAReg_other s i q r hq, getX_setX_other s i q _ hq⟩, rfl⟩

/-- Settles O34: with i = 6 and 7 the reference is a store, made unless the flag stops it. -/
theorem setAWritesStorage : Obligations.SetAWritesStorage := by
  intro s ins i r h h6 hn hr hx
  obtain ⟨hframe, hothers, hword⟩ := storeX_spec (s := setAReg s i r) (i := i) hn hx hr
  have hexec := exec_of_setsA h
  rw [setAddr_writes h6] at hexec
  generalize storeX (setAReg s i r) i r = t at hframe hothers hword hexec
  have ha : t.cpu.a = (setAReg s i r).cpu.a := by rw [hframe]
  refine ⟨t, hexec, ?_, fun q hq => ?_, ?_, hothers, hword⟩
  · rw [getA, ha]
    exact getA_setAReg_same s i r
  · rw [getA, ha]
    exact getA_setAReg_other s i q r hq
  · rw [ha]
    exact hframe

/-! ### The two stores in danger (R489) -/

/-- A store to `a` undone, putting `v` back, if its draw says so. -/
def putBackIf (d : Bool) (s : State) (a : ScmAddr) (v : Word60) : State := if d = true then scmPut s a v else s

section Hazard

variable {s : State} {a b : ScmAddr} {v w : Word60} {d : Bool}

theorem putBackIf_scmExists : scmExists (putBackIf d s a v) b = scmExists s b := by
  cases d
  · rfl
  · rw [putBackIf, if_pos rfl, (scmPut_spec s a v).1]
    rfl

theorem memRead_putBackIf_same (hx : scmExists s a = true) :
    memRead (putBackIf d s a v).scm a.toNat = if d = true then v else memRead s.scm a.toNat := by
  cases d
  · rfl
  · rw [putBackIf, if_pos rfl, (scmPut_spec s a v).2.2, if_pos hx, if_pos rfl]

theorem memRead_putBackIf_other (h : b ≠ a) : memRead (putBackIf d s a v).scm b.toNat = memRead s.scm b.toNat := by
  cases d
  · rfl
  · exact (scmPut_spec s a v).2.1 _ (mt BitVec.eq_of_toNat_eq h)

/-- With two stores on record each is undone by its own draw, but the older of two to one word only with the newer. -/
theorem beforeRange_two (hrecent : s.cpu.recent = [.store a v, .store b w]) (hflag : flag s .scmDirectRange = false) :
    (beforeRange s).scm = (putBackIf
      (Config.drawBool s.tick (.abortStore 2) && !(a == b && !Config.drawBool s.tick (.abortStore 1)))
      (putBackIf (Config.drawBool s.tick (.abortStore 1)) s a v) b w).scm := by
  rw [beforeRange, hflag, if_neg Bool.false_ne_true, abortStores, hrecent]
  rfl

theorem memRead_beforeRange_distinct (hrecent : s.cpu.recent = [.store a v, .store b w])
    (hflag : flag s .scmDirectRange = false) (ha : scmExists s a = true) (hb : scmExists s b = true) (hab : a ≠ b) :
    memRead (beforeRange s).scm a.toNat =
        (if Config.drawBool s.tick (.abortStore 1) = true then v else memRead s.scm a.toNat)
      ∧ memRead (beforeRange s).scm b.toNat =
        (if Config.drawBool s.tick (.abortStore 2) = true then w else memRead s.scm b.toNat) := by
  rw [beforeRange_two hrecent hflag, beq_false_of_ne hab, Bool.false_and, Bool.not_false, Bool.and_true,
    memRead_putBackIf_other hab, memRead_putBackIf_same ha, memRead_putBackIf_same (putBackIf_scmExists.trans hb),
    memRead_putBackIf_other hab.symm]
  exact ⟨rfl, rfl⟩

theorem memRead_beforeRange_sameWord (hrecent : s.cpu.recent = [.store a v, .store a w])
    (hflag : flag s .scmDirectRange = false) (ha : scmExists s a = true) :
    memRead (beforeRange s).scm a.toNat =
      if Config.drawBool s.tick (.abortStore 1) = true
        then (if Config.drawBool s.tick (.abortStore 2) = true then w else v) else memRead s.scm a.toNat := by
  rw [beforeRange_two hrecent hflag, beq_self_eq_true, Bool.true_and, Bool.not_not,
    memRead_putBackIf_same (putBackIf_scmExists.trans ha), memRead_putBackIf_same ha]
  cases Config.drawBool s.tick (.abortStore 1)
  · rw [Bool.and_false]
    rfl
  · rw [Bool.and_true, if_pos rfl, if_pos rfl]

end Hazard

/-- Settles O35: the word is left in Xi and then the flag set, with its effect; of two stores on record each is lost by its
draw. -/
theorem setAOutOfRange : Obligations.SetAOutOfRange := by
  refine ⟨fun s ins i r h hi hn hr hx => ?_, fun s a b v w hrecent hflag ha hb => ⟨_, _, rfl, rfl,
    memRead_beforeRange_distinct hrecent hflag ha hb, ?_⟩⟩
  · obtain ⟨scm, recent, slip, hlate, heffect⟩ := rangeLate_spec (setX (setAReg s i r) i (outOfRangeWord s i r))
    have hexec := exec_of_setsA h
    rw [setAddr_outOfRange hi hn hx hr, hlate] at hexec
    rw [hlate] at heffect
    exact ⟨_, hexec, getA_setAReg_same s i r, fun q hq => ⟨getA_setAReg_other s i q r hq, getX_setX_other s i q _ hq⟩, rfl,
      rfl, getX_setX_same s i _, heffect⟩
  · rintro rfl
    exact memRead_beforeRange_sameWord hrecent hflag ha

end Sys2Proof.Machine
end

section
/-!
The shared operations of a PPU as equations (45_ppu_instructions.md R303 to R309): its operands and addresses as the words
they are made of, the next address, and what completes or stops an instruction.
-/

namespace Sys2Proof.Machine

open Sys2Proof

/-! ### Operands and addresses -/

theorem opNo_eq_append (d : BitVec 6) : opNo d = 0#12 ++ d :=
  (BitVec.setWidth_eq_append (by decide)).trans rfl

theorem addrDirect_eq_append (d : BitVec 6) : addrDirect d = 0#6 ++ d :=
  (BitVec.setWidth_eq_append (by decide)).trans rfl

/-- A memory word extended to the width of A. -/
theorem extended_eq_append (w : Word12) : w.setWidth 18 = 0#6 ++ w :=
  (BitVec.setWidth_eq_append (by decide)).trans rfl

theorem addrIndexed_eq (u : Ppu) (d : BitVec 6) (m : Word12) :
    addrIndexed u d m = if d = 0 then m else ocAdd m (u.read (0#6 ++ d)) := by
  rw [addrIndexed, addrDirect_eq_append]

/-- 10 with d from 0 to 37 octal shifts left circular. -/
theorem shiftA_left (a : Word18) {d : BitVec 6} (h : d.toNat < 32) : shiftA a d = a.rotateLeft (d.toNat % 18) := by
  have hmsb : ¬ d.msb = true := fun hneg => by
    have := BitVec.msb_eq_true_iff_two_mul_ge.1 hneg
    omega
  rw [shiftA, if_neg hmsb, Nat.mod_eq_of_lt h]
  rfl

/-- 10 with d from 40 to 77 octal shifts right by the complement of d. -/
theorem shiftA_right (a : Word18) {d : BitVec 6} (h : 32 ≤ d.toNat) : shiftA a d = a >>> (63 - d.toNat) := by
  have hmsb : d.msb = true := BitVec.msb_eq_true_iff_two_mul_ge.2 (by omega)
  have hcount : (~~~d).toNat % 32 = 63 - d.toNat := by
    rw [BitVec.toNat_not]
    omega
  rw [shiftA, if_pos hmsb, hcount]

/-! ### Memory -/

theorem Ppu.read_write_same (u : Ppu) (a v : Word12) : (u.write a v).read a = v :=
  memRead_write_same _ _ _

theorem Ppu.read_write_other (u : Ppu) {a b : Word12} (v : Word12) (h : b ≠ a) : (u.write a v).read b = u.read b :=
  memRead_write_other _ _ _ _ (mt BitVec.eq_of_toNat_eq h)

/-! ### The next address (R303) -/

section NextAddress

variable {p : Word12} {n : Nat}

theorem nextAddr_within (wrap : PWrap) (h : p.toNat + n ≤ 0o7777) : nextAddr wrap p n = some (p + BitVec.ofNat 12 n) :=
  if_pos h

theorem nextAddr_stuck (h : 0o7777 < p.toNat + n) : nextAddr .stuck p n = none :=
  if_neg (Nat.not_le.2 h)

theorem nextAddr_modulo (p : Word12) (n : Nat) : nextAddr .modulo p n = some (p + BitVec.ofNat 12 n) :=
  ite_self _

theorem nextAddr_onesComplement (h : 0o7777 < p.toNat + n) :
    nextAddr .onesComplement p n = some (ocAdd p (BitVec.ofNat 12 n)) :=
  if_neg (Nat.not_le.2 h)

/-- Past 7777 the sum modulo 4096 has dropped its carry. -/
theorem add_past_end (hn : n ≤ 2) (h : 0o7777 < p.toNat + n) :
    p + BitVec.ofNat 12 n = BitVec.ofNat 12 (p.toNat + n - 4096) := by
  refine BitVec.eq_of_toNat_eq ?_
  rw [BitVec.toNat_add, BitVec.toNat_ofNat, BitVec.toNat_ofNat]
  omega

/-- Past 7777 the ones complement sum has added its carry at the end. -/
theorem ocAdd_past_end (hn : n ≤ 2) (h : 0o7777 < p.toNat + n) :
    ocAdd p (BitVec.ofNat 12 n) = BitVec.ofNat 12 (p.toNat + n - 4095) := by
  have hp := p.isLt
  have hwidth : n % 2 ^ 12 = n := Nat.mod_eq_of_lt (by omega)
  refine BitVec.eq_of_toNat_eq ?_
  rw [toNat_ocAdd, BitVec.toNat_ofNat, BitVec.toNat_ofNat, hwidth, if_pos (by omega)]
  omega

end NextAddress

/-! ### Outcomes -/

section PpuOutcomes

variable {s : State} {r : Outcome} {u : Ppu} {n : Nat}

/-- Where P + n is no address, an operation of `ppuThen` stops by name. -/
theorem ppuThen_stuck (h : nextAddr s.cfg.pWrap u.p n = none) : ppuThen s u n = .fault .ppuAddressStuck := by
  simp only [ppuThen, h]

theorem onlyPpu_of_next (h : r = .next (setPpu s u)) : ∃ t, r = .next t ∧ OnlyPpu s t ∧ getPpu t = u :=
  ⟨_, h, onlyPpu_setPpu s u, getPpu_setPpu s u⟩

/-- Where the executing PPU has written one word of its memory, every other word reads as before. -/
theorem onlyPpu_of_write {a v : Word12} (hmem : u.mem = (getPpu s).mem) (h : r = .next (setPpu s (u.write a v))) :
    ∃ t, r = .next t ∧ OnlyPpu s t ∧ getPpu t = { u with mem := (getPpu t).mem } ∧ (getPpu t).read a = v
      ∧ ∀ b : Word12, b ≠ a → (getPpu t).read b = (getPpu s).read b := by
  obtain ⟨t, ht, honly, hppu⟩ := onlyPpu_of_next h
  refine ⟨t, ht, honly, by rw [hppu]; rfl, by rw [hppu, Ppu.read_write_same], fun b hb => ?_⟩
  rw [hppu, Ppu.read_write_other _ _ hb, Ppu.read, hmem, Ppu.read]

theorem ppuJumpIf_taken (target : Word12) : ppuJumpIf s u true target n = .next (setPpu s { u with p := target }) := rfl

theorem ppuJumpIf_untaken (target : Word12) : ppuJumpIf s u false target n = ppuThen s u n := rfl

theorem ppuReturnJump_next {target ret p : Word12} (hret : nextAddr s.cfg.pWrap (getPpu s).p 2 = some ret)
    (hp : nextAddr s.cfg.pWrap target 1 = some p) :
    ppuReturnJump s target = .next (setPpu s ({ getPpu s with p := p }.write target ret)) := by
  simp only [ppuReturnJump, hret, hp]
  rfl

theorem ppuReturnJump_stuck {target : Word12}
    (h : nextAddr s.cfg.pWrap (getPpu s).p 2 = none ∨ nextAddr s.cfg.pWrap target 1 = none) :
    ppuReturnJump s target = .fault .ppuAddressStuck := by
  rcases h with h | h
  · simp only [ppuReturnJump, h]
  · cases hret : nextAddr s.cfg.pWrap (getPpu s).p 2 <;> simp only [ppuReturnJump, hret, h]

end PpuOutcomes

end Sys2Proof.Machine
end

section
/-!
The PPU instructions 00 to 57, the jumps 60 to 67 and the Passes (45_ppu_instructions.md): each group is one shared
operation, and each row of its relation gives that operation's operand.
-/

namespace Sys2Proof.Machine

open Sys2Proof

/-! ### Each group as one operation -/

section PpuGroups

variable {s : State} {ins : Instr} {n : Nat} {v : Word18}

/-- 10 to 23, 30 to 33, 40 to 43, 50 to 53 by address mode: constant d, constant dm, direct and indirect, indexed. -/
theorem exec_of_ppuSetsA (h : PpuSetsA (getPpu s) ins n v) : exec ins s = ppuThen s { getPpu s with a := v } n := by
  cases h with
  | shn10Left d hd => rw [← shiftA_left _ hd]; rfl
  | shn10Right d hd => rw [← shiftA_right _ hd]; rfl
  | lmn11 d | lpn12 d | scn13 d | ldn14 d | lcn15 d | adn16 d | sbn17 d => rw [← opNo_eq_append]; rfl
  | ldc20 d m | adc21 d m | lpc22 d m | lmc23 d m => rfl
  | ldd30 d | add31 d | sbd32 d | lmd33 d | ldi40 d | adi41 d | sbi42 d | lmi43 d =>
    rw [← addrDirect_eq_append, ← extended_eq_append]; rfl
  | ldm50 d m | adm51 d m | sbm52 d m | lmm53 d m => rw [← extended_eq_append]; rfl

/-- 34 to 37, 44 to 47, 54 to 57: a store proper is a replace by the A that is there. -/
theorem exec_of_ppuStoresAt {a : Word12} (h : PpuStoresAt (getPpu s) ins n a v) :
    exec ins s = ppuThen s (ppuReplace (getPpu s) a v) n := by
  cases h with
  | std34 d | sti44 d => rw [← addrDirect_eq_append]; rfl
  | rad35 d | aod36 d | sod37 d | rai45 d | aoi46 d | soi47 d =>
    rw [← addrDirect_eq_append, ← extended_eq_append]; rfl
  | stm54 d m => rfl
  | ram55 d m | aom56 d m | som57 d m => rw [← extended_eq_append]; rfl

/-- 01, 03 to 07, 60 to 67: a jump on a test that holds exactly if the condition does. -/
theorem exec_of_ppuJumpsIf {c : Prop} {target : Word12} (h : PpuJumpsIf (getPpu s) ins n c target) :
    ∃ b : Bool, (b = true ↔ c) ∧ exec ins s = ppuJumpIf s (getPpu s) b target n := by
  cases h with
  | ljm01 d m | ujn03 d => exact ⟨true, iff_of_true rfl trivial, rfl⟩
  | zjn04 d => exact ⟨_, beq_iff_eq, rfl⟩
  | njn05 d => exact ⟨_, bne_iff_ne, rfl⟩
  | pjn06 d => exact ⟨_, by rw [Bool.not_eq_true', BitVec.msb_eq_getLsbD_last], rfl⟩
  | mjn07 d => exact ⟨_, by rw [BitVec.msb_eq_getLsbD_last], rfl⟩
  | fim60 d m | irm62 d m | fom64 d m | orm66 d m => exact ⟨_, Iff.rfl, rfl⟩
  | eim61 d m | nim63 d m | eom65 d m | nom67 d m => exact ⟨_, iff_of_eq (Bool.not_eq_true' _), rfl⟩

theorem exec_of_pass (h : ins ∈ [.psn24, .pass25, .pass26, .pass27, .pass75, .pass76]) :
    exec ins s = ppuThen s (getPpu s) 1 := by
  simp only [List.mem_cons, List.not_mem_nil, or_false] at h
  rcases h with rfl | rfl | rfl | rfl | rfl | rfl <;> rfl

end PpuGroups

/-- Settles O50: each of them is the operation that sets A and goes on. -/
theorem ppuInstructionsThatSetA : Obligations.PpuInstructionsThatSetA := by
  intro s ins n v p h hp
  rw [exec_of_ppuSetsA h]
  exact onlyPpu_of_next (ppuThen_next hp)

/-- Settles O51: each of them is the operation that replaces A and one word and goes on. -/
theorem ppuInstructionsThatStore : Obligations.PpuInstructionsThatStore := by
  intro s ins n a v h
  rw [exec_of_ppuStoresAt h, ← BitVec.setWidth_eq_extractLsb' (by decide)]
  exact ⟨fun p hp => onlyPpu_of_write (u := { getPpu s with a := v, p := p }) rfl (ppuThen_next hp),
    ppuThen_stuck (u := ppuReplace (getPpu s) a v)⟩

/-- Settles O54: both addresses are there, or 02 stops. -/
theorem ppuReturnJump_spec : Obligations.PpuReturnJump := by
  intro s d m target htarget
  have hexec : exec (.rjm02 d m) s = ppuReturnJump s target := by
    rw [htarget, ← addrIndexed_eq]
    rfl
  rw [hexec]
  exact ⟨fun ret p hret hp => onlyPpu_of_write (u := { getPpu s with p := p }) rfl (ppuReturnJump_next hret hp),
    ppuReturnJump_stuck⟩

/-! ### A PPU's step -/

/-- An instruction of one word does not depend on the word after it: the codes that read it are those of the long forms. -/
theorem decodePpu_short {w : Word12} (h : isLongPpu w = false) (m : Word12) : decodePpu w m = decodePpu w 0 := by
  unfold decodePpu
  split
  case h_2 hf | h_3 hf | h_17 hf | h_18 hf | h_19 hf | h_20 hf | h_41 hf | h_42 hf | h_43 hf | h_44 hf | h_45 hf |
    h_46 hf | h_47 hf | h_48 hf | h_49 hf | h_50 hf | h_51 hf | h_52 hf | h_53 hf | h_54 hf | h_55 hf | h_56 hf |
    h_58 hf | h_60 hf =>
    exact absurd h (by rw [isLongPpu, hf]; decide)
  all_goals rfl

/-- Short of the end, the instruction at P is that of the two words there. -/
theorem Ppu.instr_eq {u : Ppu} (wrap : PWrap) (h : u.p.toNat < 0o7777) :
    u.instr wrap = some (decodePpu (u.read u.p) (u.read (u.p + 1))) := by
  unfold Ppu.instr
  dsimp only
  split
  · rw [nextAddr_within wrap (n := 1) h]
    rfl
  · next hshort => rw [decodePpu_short (Bool.eq_false_iff.2 hshort) (u.read (u.p + 1))]

theorem ppuReady_iff {s : State} {u : Unit16} :
    ppuReady s u = true ↔ u.val < s.cfg.ppuCount ∧ deadStartUp s u = false ∧ s.ppus[u].stopped = false := by
  simp only [ppuReady, Bool.and_eq_true, decide_eq_true_eq, Bool.not_eq_true', and_assoc]

theorem ppuTurn_ready {s : State} {u : Unit16} {i : Instr} (hready : ppuReady s u = true) (hidle : s.ppus[u].iop = .idle)
    (hinstr : s.ppus[u].instr s.cfg.pWrap = some i) : ppuTurn s u = exec i (ppuBegin { s with cur := u }) := by
  have hiop : (getPpu { s with cur := u }).iop = .idle := hidle
  have hword : ppuInstr { s with cur := u } = some i := hinstr
  rw [ppuTurn, if_pos hready]
  simp only [ppuStep, hiop, hword]

theorem ppuTurn_notReady {s : State} {u : Unit16} (hready : ppuReady s u = false) : ppuTurn s u = .next s :=
  if_neg (Bool.eq_false_iff.1 hready)

theorem step_ppu {s : State} {u : Unit16} (hevent : nextEvent s = .ppu u) :
    step s = onNext (ppuTurn (popEvent s) u) endStep := by
  rw [step, hevent]
  rfl

/-- Settles O7: a PPU that is ready takes its word into fd and runs the instruction at P. -/
theorem ppuStepRunsDecodedInstruction : Obligations.PpuStepRunsDecodedInstruction := by
  rintro s u w m i hevent hcount hlevel hstopped hidle hp rfl rfl rfl
  have hready : ppuReady (popEvent s) u = true := ppuReady_iff.2 ⟨hcount, hlevel, hstopped⟩
  rw [step_ppu hevent, ppuTurn_ready hready hidle (Ppu.instr_eq _ hp)]
  rfl

/-- A stopped PPU takes no step. -/
theorem step_stopped {s : State} {u : Unit16} (hevent : nextEvent s = .ppu u) (hstopped : s.ppus[u].stopped = true) :
    step s = .next (endStep (popEvent s)) := by
  have hready : ppuReady (popEvent s) u = false := Bool.eq_false_iff.2 fun h => by
    obtain ⟨-, -, hrunning⟩ := ppuReady_iff.1 h
    exact absurd (hstopped.symm.trans hrunning) (by decide)
  rw [step_ppu hevent, ppuTurn_notReady hready]
  rfl

/-! ### Jumps, Passes, stops and the end of memory -/

/-- Settles O52: by whether the test holds. -/
theorem ppuJumpInstructions : Obligations.PpuJumpInstructions := by
  intro s ins n c target h
  obtain ⟨b, hb, hexec⟩ := exec_of_ppuJumpsIf h
  rw [hexec, ← hb]
  cases b with
  | true =>
    exact ⟨fun _ => onlyPpu_of_next (ppuJumpIf_taken target), fun hn => absurd rfl hn, fun hn => absurd rfl hn⟩
  | false =>
    rw [ppuJumpIf_untaken]
    exact ⟨nofun, fun _ p hp => onlyPpu_of_next (ppuThen_next hp), fun _ => ppuThen_stuck⟩

/-- Settles O53: a Pass only goes on, 00 and 77 set the stop, and a stopped PPU is not ready. -/
theorem ppuPassesAndStops : Obligations.PpuPassesAndStops := by
  refine ⟨fun s ins h => ?_, fun s => ?_, fun s u => step_stopped⟩
  · rw [exec_of_pass h]
    exact ⟨fun p hp => onlyPpu_of_next (ppuThen_next hp), ppuThen_stuck⟩
  · exact ⟨_, rfl, rfl, onlyPpu_setPpu s _, getPpu_setPpu s _⟩

/-- Settles O55: each setting by its own sum, and the default stops what would go on. -/
theorem ppuAddressPastTheEnd : Obligations.PpuAddressPastTheEnd := by
  refine ⟨fun wrap p n _ h => nextAddr_within wrap h, fun p n hn h => ?_, fun s ins n v hsets hwrap hpast => ?_⟩
  · have hones := nextAddr_onesComplement h
    exact ⟨nextAddr_stuck h, by rw [nextAddr_modulo, add_past_end hn h], hones, by rw [hones, ocAdd_past_end hn h]⟩
  · rw [exec_of_ppuSetsA hsets]
    refine ppuThen_stuck ?_
    rw [hwrap]
    exact nextAddr_stuck hpast

end Sys2Proof.Machine
end

section
/-!
Single words and records on the PPU channels, 70, 72 and 74 (46_ppu_io.md R380, R390, R392, R394): what each does to the
executing PPU, and what freeing the scanner's cables can add to an output of the MCU (60_exceptions.md R452).
-/

namespace Sys2Proof.Machine

open Sys2Proof

/-! ### A word that has gone out (R452, D35) -/

section Output

variable {s : State} {q : Ppu}

theorem getPpu_of_cur {v : Unit16} (h : s.cur = v) : getPpu s = s.ppus[v] := by
  subst h
  rfl

theorem setPpu_same {v : Unit16} (h : s.cur = v) : (setPpu s q).ppus[v] = q := by
  subst h
  exact getPpu_setPpu s q

/-- MCU channel 0 keeps its word unless the executing PPU is the MCU and changes it. -/
theorem mcuControl_setPpu_of_line (h : s.cur = 0 → q.outData[(0 : Cable)] = (getPpu s).outData[(0 : Cable)]) :
    mcuControl (setPpu s q) = mcuControl s := by
  by_cases hmcu : s.cur = 0
  · have hline := h hmcu
    rw [getPpu_of_cur hmcu] at hline
    exact (congrArg (fun u : Ppu => u.outData[(0 : Cable)]) (setPpu_same hmcu)).trans hline
  · exact congrArg (fun u : Ppu => u.outData[(0 : Cable)]) (setPpu_other s q 0 (Ne.symm hmcu))

theorem afterOutput_of_scanSel {t : State} (h : scanSel t = scanSel s) : afterOutput s t = t := by
  rw [afterOutput, if_neg (by simp [h])]

/-- A word on any cable but the MCU's channel 0 leaves the scanner's selection. -/
theorem scanSel_send {c : Cable} {w : Word12} (hcable : s.cur ≠ 0 ∨ c ≠ 0) (hq : q.outData = (getPpu s).outData.set c w) :
    scanSel (setPpu s q) = scanSel s := by
  refine scanSel_congr (mcuControl_setPpu_of_line fun hmcu => ?_)
  rw [hq]
  exact vec_set_other _ _ (Ne.symm (hcable.resolve_left (not_not_intro hmcu)))

theorem afterOutput_send {c : Cable} {w : Word12} (hcable : s.cur ≠ 0 ∨ c ≠ 0) (hq : q.outData = (getPpu s).outData.set c w) :
    afterOutput s (setPpu s q) = setPpu s q :=
  afterOutput_of_scanSel (scanSel_send hcable hq)

/-- From `q` to `r` only the contents of cable pair `n` have changed: its lines and the pulses in flight. -/
def CableFreed (n : Cable) (q r : Ppu) : Prop :=
  r = { q with outData := r.outData, inLines := r.inLines, sentW := r.sentW, sentR := r.sentR, sentS := r.sentS }
    ∧ ∀ c : Cable, c ≠ n → r.outData[c] = q.outData[c]

theorem CableFreed.refl (n : Cable) (q : Ppu) : CableFreed n q q := ⟨rfl, fun _ _ => rfl⟩

theorem CableFreed.keeps {n : Cable} {r : Ppu} (h : CableFreed n q r) :
    r.a = q.a ∧ r.p = q.p ∧ r.mem = q.mem ∧ r.outw = q.outw ∧ ∀ c : Cable, c ≠ n → r.outData[c] = q.outData[c] := by
  obtain ⟨hr, hlines⟩ := h
  refine ⟨?_, ?_, ?_, ?_, hlines⟩ <;> rw [hr]

theorem garbleEnd_freed (s : State) (item : Nat) (u : Unit16) (n : Cable) :
    CableFreed n s.ppus[u] (garbleEnd s item u n).ppus[u] := by
  rw [garbleEnd, updPpu_getElem, if_pos rfl]
  exact ⟨rfl, fun c hc => vec_set_other _ _ hc⟩

theorem zero_notMem_targets (s t : State) : (0 : Unit16) ∉ (scanTarget s).toList ++ (scanTarget t).toList := by
  intro hm
  rcases List.mem_append.1 hm with h | h <;> exact (scanTarget_some (Option.mem_toList.1 h)).1 rfl

/-- The MCU's own output frees at most its end of the scanner's cable, channel 7. -/
theorem afterOutput_mcu (hmcu : s.cur = 0) : CableFreed 7 q (getPpu (afterOutput s (setPpu s q))) := by
  unfold afterOutput
  dsimp only
  split
  case isFalse =>
    rw [getPpu_setPpu]
    exact .refl 7 q
  case isTrue =>
    generalize hus : (scanTarget s).toList ++ (scanTarget (setPpu s q)).toList = us
    have hzero : (0 : Unit16) ∉ us := hus ▸ zero_notMem_targets _ _
    obtain ⟨⟨p, hp⟩, hends⟩ := garble_spec (setPpu s q) us
    have hcur : (garble (setPpu s q) us).cur = 0 := by rw [hp]; exact hmcu
    have hfreed := garbleEnd_freed (setPpu s q) 0 0 7
    rw [← (hends 0).2 hzero, setPpu_same hmcu] at hfreed
    rw [getPpu_of_cur hcur]
    exact hfreed

/-- The cable on which a word goes out keeps it: at most the contents of another cable of the sender are freed. -/
theorem afterOutput_sender {c : Cable} {w : Word12} (hq : q.outData = (getPpu s).outData.set c w) :
    ∃ n, n ≠ c ∧ CableFreed n q (getPpu (afterOutput s (setPpu s q))) := by
  by_cases hcable : s.cur ≠ 0 ∨ c ≠ 0
  · obtain ⟨n, hn⟩ := exists_ne c
    rw [afterOutput_send hcable hq, getPpu_setPpu]
    exact ⟨n, hn, .refl n q⟩
  · obtain ⟨hmcu, rfl⟩ : s.cur = 0 ∧ c = 0 := by simpa using hcable
    exact ⟨7, by decide, afterOutput_mcu hmcu⟩

end Output

/-! ### The three instructions as outcomes -/

section SingleWord

variable {s : State} {c : Cable}

theorem inputToA_status (h : s.cur = 0 ∧ isStatusChannel s c = true) :
    inputToA s c = ppuThen s { getPpu s with a := 0#6 ++ statusWord s c } 1 := by
  rw [← extended_eq_append, inputToA, if_pos (by rw [h.1, h.2]; rfl)]

theorem inputToA_word (h : ¬ (s.cur = 0 ∧ isStatusChannel s c = true)) (hword : (getPpu s).inw[c] = true) :
    inputToA s c = ppuThen s { (getPpu s).sampled c with a := 0#6 ++ rxLines s (.ppu s.cur c) } 1 := by
  rw [← extended_eq_append, inputToA, if_neg (by simpa using h), if_pos hword]

theorem inputToA_waits (h : ¬ (s.cur = 0 ∧ isStatusChannel s c = true)) (hword : (getPpu s).inw[c] = false) :
    inputToA s c = .next s := by
  rw [inputToA, if_neg (by simpa using h), if_neg (by rw [hword]; decide)]

/-- The free bits of a status word lie outside its mask (R454). -/
theorem statusWord_assigned (s : State) (c : Cable) :
    statusWord s c &&& (statusBits s c).1 = (statusBits s c).2 &&& (statusBits s c).1 := by
  refine BitVec.eq_of_getLsbD_eq fun i hi => ?_
  simp only [statusWord, BitVec.getLsbD_and, BitVec.getLsbD_or, BitVec.getLsbD_not, hi, decide_true, Bool.true_and]
  cases (statusBits s c).1.getLsbD i <;> simp

theorem outputFromA_waits (hflag : (getPpu s).outw[c] = true) : outputFromA s c = .next s :=
  if_pos hflag

theorem outputFromA_stuck (hflag : (getPpu s).outw[c] = false) (hp : nextAddr s.cfg.pWrap (getPpu s).p 1 = none) :
    outputFromA s c = .fault .ppuAddressStuck := by
  simp only [outputFromA, hflag, hp]
  rfl

theorem outputFromA_next {p : Word12} (hflag : (getPpu s).outw[c] = false)
    (hp : nextAddr s.cfg.pWrap (getPpu s).p 1 = some p) :
    outputFromA s c =
      .next (afterOutput s (setPpu s { (getPpu s).sending c ((getPpu s).a.extractLsb' 0 12) with p := p })) := by
  rw [← BitVec.setWidth_eq_extractLsb' (by decide)]
  simp only [outputFromA, hflag, hp]
  rfl

end SingleWord

/-! ### The obligations -/

/-- Settles O56: a status channel, a word that waits, or none. -/
theorem ppuInputToA : Obligations.PpuInputToA := by
  intro s d c hc
  obtain rfl : c = cableOf d := Fin.ext hc
  have hexec : exec (.ian70 d) s = inputToA s (cableOf d) := rfl
  rw [hexec]
  refine ⟨inputToA_waits, fun hp h => ?_, fun p hp => ⟨fun hstatus hword => ?_, fun hstatus => ?_⟩⟩
  · by_cases hstatus : s.cur = 0 ∧ isStatusChannel s (cableOf d) = true
    · rw [inputToA_status hstatus]
      exact ppuThen_stuck hp
    · rw [inputToA_word hstatus (h.resolve_left hstatus)]
      exact ppuThen_stuck hp
  · rw [inputToA_word hstatus hword]
    exact onlyPpu_of_next (ppuThen_next hp)
  · rw [inputToA_status hstatus]
    obtain ⟨t, ht, honly, hppu⟩ :=
      onlyPpu_of_next (ppuThen_next (u := { getPpu s with a := 0#6 ++ statusWord s (cableOf d) }) hp)
    exact ⟨t, statusWord s (cableOf d), ht, honly, hppu, statusWord_assigned s (cableOf d)⟩

/-- Settles O57: the cable used keeps its word, and off the MCU's channel 0 no selection changes. -/
theorem ppuOutputsWordAndRecord : Obligations.PpuOutputsWordAndRecord := by
  intro s d c hc
  obtain rfl : c = cableOf d := Fin.ext hc
  have hout : exec (.oan72 d) s = outputFromA s (cableOf d) := rfl
  have hrec : exec (.rfn74 d) s = sendRecord s (cableOf d) := rfl
  rw [hout, hrec]
  refine ⟨outputFromA_waits, fun hp => ⟨fun hflag => outputFromA_stuck hflag hp, ppuThen_stuck hp⟩,
    fun p hp => ⟨fun hflag => ?_, onlyPpu_of_next (ppuThen_next hp)⟩⟩
  rw [outputFromA_next hflag hp]
  obtain ⟨n, hn, hfreed⟩ := afterOutput_sender (s := s) (c := cableOf d)
    (q := { (getPpu s).sending (cableOf d) ((getPpu s).a.extractLsb' 0 12) with p := p }) rfl
  obtain ⟨ha, hp', hmem, houtw, hlines⟩ := hfreed.keeps
  refine ⟨_, rfl, ha, hp', hmem, (hlines _ hn.symm).trans (Vector.getElem_set_self _), ?_, fun hcable => ?_⟩
  · rw [houtw]
    exact Vector.getElem_set_self _
  · rw [afterOutput_send hcable rfl]
    exact ⟨onlyPpu_setPpu s _, getPpu_setPpu s _⟩

end Sys2Proof.Machine
end

section
/-!
The block instructions 71 and 73 (46_ppu_io.md R391, R393), the dead start load and the dead dump (70_reset_and_hazards.md
R475, R477): the entry, what a counted word does, and the end of a block.
-/

namespace Sys2Proof.Machine

open Sys2Proof

section Block

variable {s : State} {u : Ppu} {boot : Bool} {iop : Iop} {p m : Word12}

/-! ### The entry -/

theorem blockEntry_negativeZero (h : (getPpu s).a = 0o777777) : blockEntry s m iop = .refused .blockCountNegativeZero :=
  if_pos (beq_iff_eq.2 h)

theorem blockEntry_zero (h : (getPpu s).a = 0) : blockEntry s m iop = ppuThen s { getPpu s with q := m } 2 := by
  rw [blockEntry, if_neg (by rw [h]; decide), if_pos (beq_iff_eq.2 h)]

theorem blockEntry_begins (h0 : (getPpu s).a ≠ 0) (hneg : (getPpu s).a ≠ 0o777777) :
    blockEntry s m iop = .next (setPpu s { getPpu s with q := m, iop := iop }) := by
  rw [blockEntry, if_neg (mt beq_iff_eq.1 hneg), if_neg (mt beq_iff_eq.1 h0)]

/-! ### The end -/

/-- Where a block of `u` ends: at 1 after a dead start load or a dead dump, else behind the two words of the instruction. -/
def blockExit (s : State) (u : Ppu) (boot : Bool) : Option Word12 := if boot then some 1 else nextAddr s.cfg.pWrap u.p 2

theorem blockEnd_exits (h : blockExit s u boot = some p) :
    blockEnd s u boot = .next (setPpu s { u with iop := .idle, p := p }) := by
  cases boot with
  | true =>
    obtain rfl : 1 = p := Option.some.inj h
    rfl
  | false => exact ppuThen_next (u := { u with iop := .idle }) h

theorem blockEnd_stuck (h : blockExit s u boot = none) : blockEnd s u boot = .fault .ppuAddressStuck := by
  cases boot with
  | true => exact nomatch h
  | false => exact ppuThen_stuck (u := { u with iop := .idle }) h

/-! ### A counted word -/

/-- What follows a word that `u` has counted: the end of the block, or the next word. -/
def blockGoesOn (s : State) (u : Ppu) (boot : Bool) (iop : Iop) : Outcome :=
  if u.a == 0 then blockEnd s u boot else .next (setPpu s { u with iop := iop })

theorem blockGoesOn_next (h : u.a = 0 → blockExit s u boot = some p) :
    blockGoesOn s u boot iop = .next (setPpu s { u with
      p := (if u.a = 0 then p else u.p), iop := (if u.a = 0 then .idle else iop) }) := by
  by_cases hcount : u.a = 0
  · rw [if_pos hcount, if_pos hcount, blockGoesOn, if_pos (beq_iff_eq.2 hcount), blockEnd_exits (h hcount)]
  · rw [if_neg hcount, if_neg hcount, blockGoesOn, if_neg (mt beq_iff_eq.1 hcount)]

theorem blockGoesOn_stuck (hcount : u.a = 0) (h : blockExit s u boot = none) :
    blockGoesOn s u boot iop = .fault .ppuAddressStuck := by
  rw [blockGoesOn, if_pos (beq_iff_eq.2 hcount), blockEnd_stuck h]

/-- A word moved: A counts down, Q counts up. -/
def Ppu.counted (u : Ppu) : Ppu := { u with a := ocSub u.a 1, q := ocAdd u.q 1 }

/-- The PPU after a word step of 71 on cable `c` that finds the word `w`. -/
def Ppu.storedInBlock (u : Ppu) (c : Cable) (w : Word12) : Ppu := (u.counted.sampled c).write u.q w

/-- The PPU after a word step of 73 on cable `c`. -/
def Ppu.sentFromBlock (u : Ppu) (c : Cable) : Ppu := u.counted.sending c (u.read u.q)

/-! ### The word steps -/

variable {c : Cable} {first : Bool}

theorem ppuStep_inBlock (h : (getPpu s).iop = .inBlock c first boot) : ppuStep s = inWordStep s c first boot := by
  simp only [ppuStep, h]

theorem ppuStep_outBlock (h : (getPpu s).iop = .outBlock c boot) : ppuStep s = outWordStep s c boot := by
  simp only [ppuStep, h]

/-- The test on the Record flag of a step of 71 (D33) fails. -/
theorem recordTest_false (h : first = true ∨ (getPpu s).inr[c] = false) : ¬ (!first && (getPpu s).inr[c]) = true := by
  rcases h with h | h <;> simp [h]

theorem inWordStep_record (hfirst : first = false) (hrec : (getPpu s).inr[c] = true) :
    inWordStep s c first boot =
      blockEnd s ((getPpu s).write (getPpu s).q (low (Config.draw s.tick .noise))) boot := by
  rw [inWordStep, if_pos (by rw [hfirst, hrec]; rfl)]

theorem inWordStep_word (hrec : first = true ∨ (getPpu s).inr[c] = false) (hword : (getPpu s).inw[c] = true) :
    inWordStep s c first boot =
      blockGoesOn s ((getPpu s).storedInBlock c (rxLines s (.ppu s.cur c))) boot (.inBlock c false boot) := by
  rw [inWordStep, if_neg (recordTest_false hrec), if_pos hword]
  rfl

theorem inWordStep_waits (hrec : first = true ∨ (getPpu s).inr[c] = false) (hword : (getPpu s).inw[c] = false) :
    inWordStep s c first boot = .next s := by
  rw [inWordStep, if_neg (recordTest_false hrec), if_neg (by rw [hword]; decide)]

theorem outWordStep_waits (hflag : (getPpu s).outw[c] = true) : outWordStep s c boot = .next s :=
  if_pos hflag

/-- The selection of the scanner is looked at after the step (R452). -/
theorem outWordStep_word (hflag : (getPpu s).outw[c] = false) :
    outWordStep s c boot =
      onNext (blockGoesOn s ((getPpu s).sentFromBlock c) boot (.outBlock c boot)) (afterOutput s) := by
  rw [outWordStep, if_neg (by rw [hflag]; decide)]
  change (match blockGoesOn s ((getPpu s).sentFromBlock c) boot (.outBlock c boot) with
    | .next t => Host.Outcome.next (afterOutput s t)
    | r => r) = _
  cases blockGoesOn s ((getPpu s).sentFromBlock c) boot (.outBlock c boot) <;> rfl

end Block

/-! ### The obligations -/

/-- Settles O58: by the count. -/
theorem ppuBlockTransfersBegin : Obligations.PpuBlockTransfersBegin := by
  intro s d c m hc
  obtain rfl : c = cableOf d := Fin.ext hc
  have hin : exec (.iam71 d m) s = blockEntry s m (.inBlock (cableOf d) true false) := rfl
  have hout : exec (.oam73 d m) s = blockEntry s m (.outBlock (cableOf d) false) := rfl
  rw [hin, hout]
  refine ⟨fun h0 hneg => ?_, fun h0 => ?_, fun hneg => ⟨blockEntry_negativeZero hneg, blockEntry_negativeZero hneg⟩⟩
  · exact ⟨onlyPpu_of_next (blockEntry_begins h0 hneg), onlyPpu_of_next (blockEntry_begins h0 hneg)⟩
  · rw [blockEntry_zero h0, blockEntry_zero h0]
    refine ⟨fun p hp => ?_, fun hp => ⟨ppuThen_stuck hp, ppuThen_stuck hp⟩⟩
    obtain ⟨t, ht, honly, hppu⟩ := onlyPpu_of_next (ppuThen_next (u := { getPpu s with q := m }) hp)
    exact ⟨t, ht, ht, honly, hppu⟩

/-- Settles O59: by the Record flag, tested first, and the Word flag. -/
theorem ppuBlockInputWord : Obligations.PpuBlockInputWord := by
  rintro s c first boot e hiop rfl
  rw [ppuStep_inBlock hiop]
  refine ⟨fun hrec hword => ?_, fun hfirst hrec => ?_, inWordStep_waits⟩
  · rw [inWordStep_word hrec hword]
    refine ⟨fun p hp => ?_, blockGoesOn_stuck (u := (getPpu s).storedInBlock c (rxLines s (.ppu s.cur c)))⟩
    obtain ⟨t, ht, honly, hppu, hsame, hother⟩ := onlyPpu_of_write (u := { (getPpu s).counted.sampled c with
        p := if ocSub (getPpu s).a 1 = 0 then p else (getPpu s).p
        iop := if ocSub (getPpu s).a 1 = 0 then .idle else .inBlock c false boot })
      rfl (blockGoesOn_next (u := (getPpu s).storedInBlock c (rxLines s (.ppu s.cur c))) hp)
    exact ⟨t, ht, honly, hsame, hother, hppu⟩
  · rw [inWordStep_record hfirst hrec]
    generalize low (Config.draw s.tick .noise) = noise
    refine ⟨fun p hp => ?_, blockEnd_stuck (u := (getPpu s).write (getPpu s).q noise)⟩
    obtain ⟨t, ht, honly, hppu, -, hother⟩ := onlyPpu_of_write (u := { getPpu s with iop := .idle, p := p })
      rfl (blockEnd_exits (u := (getPpu s).write (getPpu s).q noise) hp)
    exact ⟨t, ht, honly, hother, hppu⟩

/-- Settles O60: a word of 73 off the MCU's channel 0 leaves the scanner's selection. -/
theorem ppuBlockOutputWord : Obligations.PpuBlockOutputWord := by
  rintro s c boot e hiop hcable rfl
  rw [ppuStep_outBlock hiop]
  refine ⟨fun hflag => ?_, outWordStep_waits⟩
  rw [outWordStep_word hflag]
  refine ⟨fun p hp => ?_, fun hcount hnone => ?_⟩
  · rw [blockGoesOn_next (u := (getPpu s).sentFromBlock c) hp]
    exact onlyPpu_of_next (congrArg Host.Outcome.next (afterOutput_send hcable rfl))
  · rw [blockGoesOn_stuck (u := (getPpu s).sentFromBlock c) hcount hnone]
    rfl

end Sys2Proof.Machine
end

section
/-!
Exchange jumps, forth and back (60_exceptions.md R412, R436): what one reference of the sequence does, and that exchanging
twice at one address restores the registers.
-/

namespace Sys2Proof.Machine

open Sys2Proof

/-! ### One reference of the sequence -/

section Reference

variable {s : State} {x : Exchange} {w : Fin 16}

/-- A word not read yet is read. -/
theorem exchangeStep_reads (hbad : s.scmBad = []) (hfull : s.cfg.scmWords = 65536) (hw : exchangeWord s x = some w)
    (hg : x.got[w] = none) : exchangeStep s x = { s with cpu := { s.cpu with
      phase := .exchanging (x.reading w (memRead s.scm (pkgAddr x.addr w).toNat)) } } := by
  simp only [exchangeStep, hw, hg, Option.isNone_none, if_true, exchangeRead_spec x w hbad,
    scmValue_none hbad (scmExists_full hfull _)]
  rfl

/-- A word that has been read is written. -/
theorem exchangeStep_writes (hbad : s.scmBad = []) (hw : exchangeWord s x = some w) (hg : x.got[w] ≠ none) :
    exchangeStep s x = { s with
      scm := (scmPut s (pkgAddr x.addr w) (exchangeOut s x w)).scm
      cpu := { s.cpu with phase := .exchanging (x.writing w) } } := by
  have hread : x.got[w].isNone = false := Option.isNone_eq_false_iff.2 (Option.isSome_iff_ne_none.2 hg)
  simp only [exchangeStep, hw, hread, Bool.false_eq_true, if_false, exchangeWrite_spec x w hbad]
  rfl

/-- Where no level acts, none acts after a reference either, and the step is the reference. -/
theorem step_reference (hq : Quiet s) (hbad : s.scmBad = []) (hphase : s.cpu.phase = .exchanging x)
    (hw : exchangeWord s x = some w) : step s = .next (ticked s (exchangeStep s x)) := by
  have hkept : LevelsIdle (exchangeStep s x) ∧ (exchangeStep s x).tick = s.tick := by
    simp only [exchangeStep, hw]
    split
    · rw [exchangeRead_spec x w hbad]
      exact ⟨hq.1, rfl⟩
    · rw [exchangeWrite_spec x w hbad]
      exact ⟨hq.1, rfl⟩
  rw [step_exchanging hq hphase, endStep_idle hkept.1, ticked, hkept.2]
  rfl

end Reference

/-- Settles O26: the sequence as a whole, by its invariant `Midway`, and one reference of it. -/
theorem exchangeJumpSwapsRegistersAndPackage : Obligations.ExchangeJumpSwapsRegistersAndPackage := by
  refine ⟨fun s a p who hq hn hready hwho => exchangeJump_exchanges a p hwho hq hn hready,
    fun s x hq hn hfull hphase hleft => ?_⟩
  obtain ⟨w, hw⟩ : ∃ w, exchangeWord s x = some w := by
    refine Option.ne_none_iff_exists'.1 fun hnone => ?_
    obtain ⟨v, hv⟩ := hleft
    rw [exchangeWord_none.1 hnone v] at hv
    cases hv
  refine ⟨w, exchangeStep s x, step_reference hq hn.1 hphase hw, exchangeWord_some hw, exchangeStep_reads hn.1 hfull hw,
    fun hg => ?_⟩
  rw [exchangeStep_writes hn.1 hw hg]
  exact ⟨rfl, (scmPut_spec s (pkgAddr x.addr w) (exchangeOut s x w)).2.1⟩

/-! ### There and back -/

theorem sameRegisters.trans {c d e : Cpu} (h : sameRegisters c d) (k : sameRegisters d e) : sameRegisters c e := by
  obtain ⟨h1, h2, h3, h4, h5, h6, h7, h8, h9, h10, h11, h12⟩ := h
  obtain ⟨k1, k2, k3, k4, k5, k6, k7, k8, k9, k10, k11, k12⟩ := k
  exact ⟨h1.trans k1, h2.trans k2, h3.trans k3, h4.trans k4, h5.trans k5, h6.trans k6, h7.trans k7, h8.trans k8,
    h9.trans k9, h10.trans k10, h11.trans k11, h12.trans k12⟩

/-- A package holds every register, so what the registers were before its load is gone. -/
theorem pkgDecode_sameRegisters (l : PkgLayout) (pkg : List Word60) (c d : Cpu) :
    sameRegisters (pkgDecode l pkg c) (pkgDecode l pkg d) :=
  ⟨rfl, rfl, rfl, rfl, rfl, rfl, rfl, rfl, rfl, rfl, rfl, rfl⟩

section Exchanged

variable {s t : State} {a : ScmAddr} {p : Word18}

theorem Exchanged.cfg (h : Exchanged s t a p) : t.cfg = s.cfg := by
  obtain ⟨-, -, -, -, -, -, -, -, hframe⟩ := h
  rw [hframe]

theorem Exchanged.quiet (h : Exchanged s t a p) (hq : Quiet s) : Quiet t := by
  obtain ⟨-, -, -, -, -, -, -, -, hframe⟩ := h
  rw [hframe]
  exact hq

theorem Exchanged.noParity (h : Exchanged s t a p) (hn : NoParity s) : NoParity t := by
  obtain ⟨-, -, -, -, -, -, -, -, hframe⟩ := h
  rw [hframe]
  exact hn

/-- A package loads zero into B0. -/
theorem Exchanged.pkgReady (h : Exchanged s t a p) (hready : PkgReady s) : PkgReady t := by
  have hcfg := h.cfg
  obtain ⟨⟨-, -, -, -, -, -, -, -, -, -, -, hb⟩, -⟩ := h
  obtain ⟨hlayout, hfull, -⟩ := hready
  exact ⟨by rw [hcfg, hlayout], by rw [hcfg, hfull], by rw [hb]; rfl⟩

/-- The exchange back loads what the first one stored. -/
theorem Exchanged.back {u : State} {q : Word18} (h : Exchanged s t a p) (k : Exchanged t u a q) :
    sameRegisters u.cpu { s.cpu with p := p } ∧ ∀ n, ¬ inPkg a n → memRead u.scm n = memRead s.scm n := by
  have hcfg := h.cfg
  obtain ⟨-, hstored, houtside, -⟩ := h
  obtain ⟨hloaded, -, koutside, -⟩ := k
  rw [hcfg] at hloaded
  exact ⟨(hloaded.trans (pkgDecode_sameRegisters _ _ _ _)).trans hstored,
    fun n hn => (koutside n hn).trans (houtside n hn)⟩

end Exchanged

/-- Settles O27: the state after the first exchange satisfies the premises of the second. -/
theorem exchangeBackRestoresTheRegisters : Obligations.ExchangeBackRestoresTheRegisters := by
  intro s a p1 p2 who1 who2 hq hn hready hwho1 hwho2
  obtain ⟨-, t, ht, hthere⟩ := exchangeJump_exchanges a p1 hwho1 hq hn hready
  obtain ⟨-, u, hu, hback⟩ :=
    exchangeJump_exchanges a p2 hwho2 (hthere.quiet hq) (hthere.noParity hn) (hthere.pkgReady hready)
  exact ⟨t, u, ht, hu, hthere.back hback⟩

end Sys2Proof.Machine
end

section
/-!
The end of a word (60_exceptions.md R414 to R417, R430 to R432, R441 to R445): which interrupt or error exit it takes, and what
Monitor Mode and Clear I/O keep it from taking (R442, 70_reset_and_hazards.md R472).
-/

namespace Sys2Proof.Machine

open Sys2Proof

/-! ### The I/O request that is taken -/

/-- What channel `c` asks for: input before output. -/
def channelAsks (s : State) (c : Unit16) : Option (Unit16 × Bool) :=
  if channelPresent s c && s.mux[c].inp.ireq then some (c, true)
  else if channelPresent s c && s.mux[c].out.ireq then some (c, false)
  else none

theorem pendingIo_eq (s : State) : pendingIo s = (List.finRange 16).findSome? (channelAsks s) := rfl

section Asks

variable {s : State} {c : Unit16}

theorem channelAsks_none : channelAsks s c = none ↔
    (channelPresent s c = true → s.mux[c].inp.ireq = false ∧ s.mux[c].out.ireq = false) := by
  unfold channelAsks
  cases channelPresent s c <;> cases s.mux[c].inp.ireq <;> cases s.mux[c].out.ireq <;> simp

theorem channelAsks_some {d : Unit16} {input : Bool} (h : channelAsks s d = some (c, input)) : d = c
    ∧ channelPresent s c = true
    ∧ if input then s.mux[c].inp.ireq = true else s.mux[c].out.ireq = true ∧ s.mux[c].inp.ireq = false := by
  unfold channelAsks at h
  split at h
  · rename_i hin
    cases h
    exact ⟨rfl, Bool.and_eq_true_iff.1 hin⟩
  · rename_i hin
    split at h
    · rename_i hout
      cases h
      obtain ⟨hp, hout⟩ := Bool.and_eq_true_iff.1 hout
      rw [hp, Bool.true_and, Bool.not_eq_true] at hin
      exact ⟨rfl, hp, hout, hin⟩
    · cases h

end Asks

/-- The request taken is the first by channel: those of lower number ask for nothing. -/
theorem pendingIo_some {s : State} {c : Unit16} {input : Bool} (h : pendingIo s = some (c, input)) :
    channelAsks s c = some (c, input) ∧ ∀ d, d < c → channelAsks s d = none := by
  rw [pendingIo_eq, List.findSome?_eq_some_iff] at h
  obtain ⟨l, b, m, hlist, hb, hbefore⟩ := h
  obtain ⟨rfl, -⟩ := channelAsks_some hb
  refine ⟨hb, fun d hd => hbefore d ?_⟩
  have hsorted := List.pairwise_lt_finRange 16
  rw [hlist, List.pairwise_append, List.pairwise_cons] at hsorted
  have hmem := List.mem_finRange d
  rw [hlist, List.mem_append, List.mem_cons] at hmem
  rcases hmem with hl | rfl | hm
  · exact hl
  · exact absurd hd (lt_irrefl d)
  · exact absurd hd (hsorted.2.1.1 d hm).asymm

theorem pendingIo_none {s : State} (h : ∀ c, channelAsks s c = none) : pendingIo s = none := by
  rw [pendingIo_eq, List.findSome?_eq_none_iff]
  exact fun c _ => h c

/-! ### Interrupts at the end of a word -/

/-- The CPU goes on with the word at `next`. -/
def goesOn (s : State) (next : Word18) : State := { s with cpu := { s.cpu with p := next, phase := .fetch, flow := .seq } }

/-- Whether the draw lets the real-time request be taken. -/
def rtcTakes (s : State) : Bool := s.rtcFlag && rtcEnabled s && Config.drawBool s.tick .takeRtc

/-- The I/O request, if the draw and Monitor Mode let it be taken. -/
def ioTakes (s : State) : Option (Unit16 × Bool) :=
  if flag s .monitorMode then none else if Config.drawBool s.tick .takeIo then pendingIo s else none

theorem takenInterrupt_eq (s : State) : takenInterrupt s =
    if rtcTakes s && ((ioTakes s).isNone || Config.drawBool s.tick .rtcFirst) then some none else (ioTakes s).map some := rfl

theorem rtcFlag_of_rtcTakes {s : State} (h : rtcTakes s = true) : s.rtcFlag = true := by
  rw [rtcTakes, Bool.and_assoc, Bool.and_eq_true] at h
  exact h.1

theorem ioTakes_some {s : State} {r : Unit16 × Bool} (h : ioTakes s = some r) :
    flag s .monitorMode = false ∧ pendingIo s = some r := by
  unfold ioTakes at h
  split at h
  · cases h
  · rename_i hm
    split at h
    · exact ⟨Bool.not_eq_true _ ▸ hm, h⟩
    · cases h

theorem takenInterrupt_realTime {s : State} (h : takenInterrupt s = some none) : s.rtcFlag = true := by
  rw [takenInterrupt_eq] at h
  split at h
  · rename_i hrtc
    exact rtcFlag_of_rtcTakes (Bool.and_eq_true_iff.1 hrtc).1
  · rw [Option.map_eq_some_iff] at h
    obtain ⟨_, _, hr⟩ := h
    cases hr

theorem takenInterrupt_io {s : State} {r : Unit16 × Bool} (h : takenInterrupt s = some (some r)) :
    flag s .monitorMode = false ∧ pendingIo s = some r := by
  rw [takenInterrupt_eq] at h
  split at h
  · cases h
  · rw [Option.map_eq_some_iff] at h
    obtain ⟨_, hio, hr⟩ := h
    cases hr
    exact ioTakes_some hio

/-- What the end of a word can do where no error exit comes before (R414): take the real-time request, take the I/O request
outside Monitor Mode, or go on. -/
theorem wordEndInterrupts_cases (s : State) (next : Word18) :
    s.rtcFlag = true ∧ wordEndInterrupts s next = exchangeJump { s with rtcFlag := false } 0o20 next .realTime
    ∨ (∃ c input, flag s .monitorMode = false ∧ pendingIo s = some (c, input)
        ∧ wordEndInterrupts s next = acceptIo s c input next)
    ∨ wordEndInterrupts s next = goesOn s next := by
  unfold wordEndInterrupts
  split
  · rename_i h
    exact .inl ⟨takenInterrupt_realTime h, rfl⟩
  · rename_i c input h
    obtain ⟨hm, hio⟩ := takenInterrupt_io h
    exact .inr (.inl ⟨c, input, hm, hio, rfl⟩)
  · exact .inr (.inr rfl)

/-- With no request that it may take, it goes on. -/
theorem wordEndInterrupts_none {s : State} (next : Word18) (hrtc : s.rtcFlag = false)
    (hio : flag s .monitorMode = true ∨ pendingIo s = none) : wordEndInterrupts s next = goesOn s next := by
  rcases wordEndInterrupts_cases s next with ⟨hr, -⟩ | ⟨c, input, hm, hp, -⟩ | h
  · rw [hrtc] at hr
    cases hr
  · rw [hm, hp] at hio
    rcases hio with hio | hio <;> cases hio
  · exact h

/-! ### Error exits at the end of a word -/

/-- At the end of a word the CPU notes whether the next one follows two 30-bit Increment instructions (R431). -/
def wordEnded (s : State) : State := { s with cpu := { s.cpu with seqInc := seqAfterInc s } }

section EndWord

variable {s : State} (next : Word18)

theorem endWord_break (h : breakAfterBranch s = true) :
    endWord s next = errorExit (setFlag (wordEnded s) .breakpoint) next := if_pos h

/-- With no breakpoint and no cause the interrupts follow. -/
theorem endWord_noCause (hb : breakAfterBranch s = false) (he : errorRequest s.cpu.psd = false) :
    endWord s next = wordEndInterrupts (wordEnded s) next := by
  have hb' : breakAfterBranch (wordEnded s) = false := hb
  have he' : errorRequest (wordEnded s).cpu.psd = false := he
  rw [endWord, ← wordEnded, endTests, hb', he']
  rfl

/-- With a cause and no slip left the error exit is taken. -/
theorem endWord_errorExit (hb : breakAfterBranch s = false) (he : errorRequest s.cpu.psd = true)
    (hslip : s.cpu.slip = none ∨ s.cpu.slip = some 0) : endWord s next = errorExit (wordEnded s) next := by
  have hb' : breakAfterBranch (wordEnded s) = false := hb
  have he' : errorRequest (wordEnded s).cpu.psd = true := he
  have hslip' : (wordEnded s).cpu.slip = none ∨ (wordEnded s).cpu.slip = some 0 := hslip
  rw [endWord, ← wordEnded, endTests, hb', he']
  rcases hslip' with h | h <;> rw [h] <;> rfl

/-- With a slip above 0 it is counted down. -/
theorem endWord_slip {n : Nat} (hb : breakAfterBranch s = false) (he : errorRequest s.cpu.psd = true)
    (hslip : s.cpu.slip = some (n + 1)) : endWord s next =
      wordEndInterrupts { s with cpu := { s.cpu with slip := some n, seqInc := seqAfterInc s } } next := by
  have hb' : breakAfterBranch (wordEnded s) = false := hb
  have he' : errorRequest (wordEnded s).cpu.psd = true := he
  have hslip' : (wordEnded s).cpu.slip = some (n + 1) := hslip
  rw [endWord, ← wordEnded, endTests, hb', he', hslip']
  rfl

end EndWord

/-- What the end of a word can do, error exits included. -/
theorem endWord_cases (s : State) (next : Word18) : (∃ psd, endWord s next =
      errorExit { s with cpu := { s.cpu with psd := psd, seqInc := seqAfterInc s } } next)
    ∨ ∃ slip, endWord s next =
      wordEndInterrupts { s with cpu := { s.cpu with slip := slip, seqInc := seqAfterInc s } } next := by
  cases hb : breakAfterBranch s
  · cases he : errorRequest s.cpu.psd
    · exact .inr ⟨s.cpu.slip, endWord_noCause next hb he⟩
    · match hslip : s.cpu.slip with
      | none => exact .inl ⟨s.cpu.psd, endWord_errorExit next hb he (.inl hslip)⟩
      | some 0 => exact .inl ⟨s.cpu.psd, endWord_errorExit next hb he (.inr hslip)⟩
      | some (n + 1) => exact .inr ⟨some n, endWord_slip next hb he hslip⟩
  · exact .inl ⟨_, endWord_break next hb⟩

/-! ### Clear I/O -/

theorem clearIo_mux_getElem (s : State) (c : Unit16) :
    (clearIo s).mux[c] = ⟨s.mux[c].inp.clear s.tick c, s.mux[c].out.clear s.tick c⟩ := by
  simp [clearIo]

theorem ofMux_of_mem_clearIo {s : State} {r : ScmRequest} (h : r ∈ (clearIo s).scmQueue) : r.ofMux = false := by
  simpa using (List.mem_filter.1 h).2

/-- With Clear I/O up the levels of the CPU section leave the channels as it leaves them; the CPU's dead start may withdraw
the CPU's requests too. -/
theorem applyCpuLevels_clearIo {s : State} (h : mcuBit s 4 = true) : ∃ u,
    (applyCpuLevels s).mux = (clearIo u).mux ∧ (applyCpuLevels s).scmQueue ⊆ (clearIo u).scmQueue := by
  unfold applyCpuLevels
  dsimp only
  rw [h, if_pos rfl]
  generalize (if mcuBit s 3 = true then { s with scmLatch := ⟨0, 0⟩, lcmLatch := ⟨0, 0⟩ } else s : State) = u
  split
  · exact ⟨u, rfl, fun _ => List.mem_of_mem_filter⟩
  · exact ⟨u, rfl, List.Subset.refl _⟩

/-- The levels of the CPU section leave the clock and its request. -/
theorem applyCpuLevels_clock (s : State) : (applyCpuLevels s).clk = s.clk ∧ (applyCpuLevels s).rtcFlag = s.rtcFlag := by
  unfold applyCpuLevels
  dsimp only
  split <;> split <;> split <;> exact ⟨rfl, rfl⟩

/-- The MCU's own levels change PPUs only. -/
theorem applyMcuLevels_onlyPpus (s : State) : ∃ p, applyMcuLevels s = { s with ppus := p } := by
  rw [applyMcuLevels_eq]
  split
  · obtain ⟨⟨p, hp⟩, -⟩ := forcedResume_spec (updPpu s 0 (Ppu.clearParity (mcuBit s 6))) 0
    rw [applyDeadStart, hp]
    exact ⟨_, rfl⟩
  · exact ⟨_, rfl⟩

/-- The end of a step is what the levels of the CPU section do, but for the PPUs, after cables may have changed. -/
theorem settle_cpuLevels (s : State) : ∃ u p, OnlyCables s u ∧ mcuControl u = mcuControl s
    ∧ settle s = { applyCpuLevels u with ppus := p } := by
  have hcables : OnlyCables s (afterSelected s) := by
    unfold afterSelected
    split
    · exact applySelected_onlyCables s _
    · exact .refl s
  obtain ⟨p, hp⟩ := applyMcuLevels_onlyPpus (applyCpuLevels (afterSelected s))
  rw [settle_eq, hp]
  exact ⟨_, _, hcables, mcuControl_falls (afterSelected_mcu s).1, rfl⟩

/-- What Clear I/O leaves at the end of a step. -/
theorem settle_clearIo {s : State} (h : mcuBit s 4 = true) : ∃ u,
    (settle s).mux = (clearIo u).mux ∧ (settle s).scmQueue ⊆ (clearIo u).scmQueue := by
  obtain ⟨u, p, -, hmcu, hsettle⟩ := settle_cpuLevels s
  rw [hsettle]
  exact applyCpuLevels_clearIo (by rwa [mcuBit, hmcu])

/-- The end of a step leaves the clock and its request. -/
theorem settle_clock (s : State) : (settle s).rtcFlag = s.rtcFlag ∧ (settle s).clk = s.clk := by
  obtain ⟨u, p, ⟨_, _, rfl⟩, -, hsettle⟩ := settle_cpuLevels s
  rw [hsettle]
  exact ⟨(applyCpuLevels_clock _).2, (applyCpuLevels_clock _).1⟩

/-! ### Monitor Mode and the order of I/O requests -/

/-- In Monitor Mode the end of a word leaves the multiplexer alone, and the exchange that it may begin is an error exit or the
real-time interrupt. -/
theorem endWord_monitor {s : State} (next : Word18) (hm : flag s .monitorMode = true) :
    (endWord s next).mux = s.mux ∧ (endWord s next).scmQueue = s.scmQueue
      ∧ ∀ x, (endWord s next).cpu.phase = .exchanging x →
        (x.initiator = .errorExit ∧ x.addr = s.cpu.eea) ∨ (x.initiator = .realTime ∧ x.addr = 0o20 ∧ s.rtcFlag = true) := by
  rcases endWord_cases s next with ⟨psd, h⟩ | ⟨slip, h⟩ <;> rw [h]
  · refine ⟨rfl, rfl, fun x hx => ?_⟩
    cases hx
    exact .inl ⟨rfl, rfl⟩
  · rcases wordEndInterrupts_cases { s with cpu := { s.cpu with slip := slip, seqInc := seqAfterInc s } } next with
      ⟨hrtc, h⟩ | ⟨c, input, hmonitor, -, -⟩ | h
    · rw [h]
      refine ⟨rfl, rfl, fun x hx => ?_⟩
      cases hx
      exact .inr ⟨rfl, rfl, hrtc⟩
    · cases hm.symm.trans hmonitor
    · rw [h]
      exact ⟨rfl, rfl, fun x hx => by cases hx⟩

/-- Settles O42: the end of a word in Monitor Mode, by what it may take, and what Clear I/O leaves. -/
theorem monitorModeMasksIoRequests : Obligations.MonitorModeMasksIoRequests := by
  refine ⟨fun s next hm hrtc he hb => ?_, fun s t next hm ht => ht ▸ endWord_monitor next hm, fun s hclear => ?_⟩
  · rw [endWord_noCause next hb he, wordEndInterrupts_none next (s := wordEnded s) hrtc (.inl hm)]
    rfl
  · obtain ⟨u, hmux, hqueue⟩ := settle_clearIo (s := s) hclear
    refine ⟨fun c m hc => ?_, pendingIo_none fun c => channelAsks_none.2 fun _ => ?_, fun c input hserved => ?_,
      settle_clock s⟩
    · rw [hc, hmux, clearIo_mux_getElem]
      exact ⟨rfl, rfl, rfl, rfl, rfl, rfl, rfl, rfl, rfl⟩
    · rw [hmux, clearIo_mux_getElem]
      exact ⟨rfl, rfl⟩
    · obtain ⟨-, l, m, hlist, -⟩ := servedRequest_spec hserved
      have hmem : ScmRequest.mux c input ∈ (settle s).scmQueue := by
        rw [hlist]
        exact List.mem_append_right l List.mem_cons_self
      cases ofMux_of_mem_clearIo (hqueue hmem)

/-- The channels after the request of one side has been taken: it is dropped, and locked out (R107, R441). -/
theorem acceptIo_exchanges {s : State} (c : Unit16) (input : Bool) (next : Word18) (hq : Quiet s) (hn : NoParity s)
    (hready : PkgReady s) :
    Exchanges { s with mux := s.mux.set c (if input then
        { s.mux[c] with inp := { s.mux[c].inp with ireq := false, lockout := true } }
        else { s.mux[c] with out := { s.mux[c].out with ireq := false, lockout := true } }) }
      (acceptIo s c input next) (BitVec.ofNat 16 (0o40 * c.val + if input then 0 else 0o20)) next := by
  cases input <;> exact exchangeJump_exchanges (s := { s with mux := _ }) _ next (by decide) hq hn hready

/-- Settles O43: the request that is taken, and what the end of a word may take. -/
theorem ioRequestsAreTakenInOrder : Obligations.IoRequestsAreTakenInOrder := by
  intro s next c input hq hn hready hpending
  obtain ⟨hasks, hbefore⟩ := pendingIo_some hpending
  obtain ⟨-, hpresent, hside⟩ := channelAsks_some hasks
  obtain ⟨hc, hmux⟩ := channelPresent_iff.1 hpresent
  refine ⟨hc, hmux, hside, fun d hd hd0 hdmux => channelAsks_none.1 (hbefore d hd) (channelPresent_iff.2 ⟨hd0, hdmux⟩),
    acceptIo_exchanges c input next hq hn hready, fun _ => ?_⟩
  rcases wordEndInterrupts_cases s next with h | ⟨d, i, -, hd, h⟩ | h
  · exact .inr (.inl h)
  · cases hpending.symm.trans hd
    exact .inl h
  · exact .inr (.inr h)

end Sys2Proof.Machine
end

section
/-!
Causes of an error exit (60_exceptions.md R416, R417, R430, R432, R433): Step Mode, the breakpoint after a branch, parity errors,
and the exit at the end of the word.
-/

namespace Sys2Proof.Machine

open Sys2Proof

/-! ### Step Mode and the breakpoint after a branch -/

/-- A flag that is always a cause becomes set at once: the exit comes with no slip left. -/
theorem raiseNow_clear {s : State} {f : PsdFlag} (h : flag s f = false) (hc : isCause s.cpu.psd f = true) :
    raiseNow s f = { s with cpu := { s.cpu with psd := withFlags s [f], slip := some 0 } } := by
  have hslip : lowerSlip s.cpu.slip 0 = some 0 := by
    cases s.cpu.slip with
    | none => rfl
    | some m => exact congrArg some (Nat.zero_min m)
  obtain ⟨hframe, hs⟩ := raiseWith_spec s f 0
  rw [if_pos ⟨h, hc⟩, hslip] at hs
  rw [raiseNow, hframe, hs]

/-- An instruction issued in Step Mode with Step clear sets Step, a cause with slip 0 (R430). -/
theorem issue_step {s : State} (i : Instr) (hm : flag s .stepMode = true) (hs : flag s .step = false) :
    issue s i = { noteIssue s i with cpu := { (noteIssue s i).cpu with psd := withFlags s [.step], slip := some 0 } } := by
  rw [issue, if_pos hm]
  exact raiseNow_clear (s := noteIssue s i) hs rfl

/-- Step alone is a cause of an error exit (R416). -/
theorem errorRequest_of_step {s : State} (h : flag s .step = true) : errorRequest s.cpu.psd = true := by
  have hbit : s.cpu.psd[3] = true := by
    rw [← BitVec.getLsbD_eq_getElem]
    exact h
  have hcause : (s.cpu.psd &&& 0o7770 != 0) = true := by
    rw [bne_iff_ne]
    intro hzero
    have hz := congrArg (·.getLsbD 3) hzero
    simp [hbit] at hz
  simp only [errorRequest, hcause, Bool.true_or]

theorem breakAfterBranch_iff {s : State} :
    breakAfterBranch s = true ↔ s.cpu.branched = true ∧ s.cpu.p + 1 = s.cpu.bpa := by
  rw [breakAfterBranch, Bool.and_eq_true, beq_iff_eq, nextWord]

theorem breakAfterBranch_false {s : State} (h : s.cpu.branched = false ∨ s.cpu.p + 1 ≠ s.cpu.bpa) :
    breakAfterBranch s = false := by
  refine Bool.eq_false_iff.2 fun hb => ?_
  obtain ⟨hbranched, hbpa⟩ := breakAfterBranch_iff.1 hb
  rcases h with h | h
  · cases hbranched.symm.trans h
  · exact h hbpa

/-! ### The exit -/

section Exit

variable {s : State} (next : Word18)

/-- A cause with no slip left is taken at the end of the word: the machine with the word ended exchanges at (EEA). -/
theorem endWord_exchanges (hq : Quiet s) (hn : NoParity s) (hready : PkgReady s) (hb : breakAfterBranch s = false)
    (he : errorRequest s.cpu.psd = true) (hslip : s.cpu.slip = none ∨ s.cpu.slip = some 0) :
    Exchanges (wordEnded s) (endWord s next) s.cpu.eea next := by
  rw [endWord_errorExit next hb he hslip]
  exact exchangeJump_exchanges (s := wordEnded s) s.cpu.eea next (by decide) hq hn hready

/-- So is the breakpoint after a branch, with Breakpoint set (R432). -/
theorem endWord_break_exchanges (hq : Quiet s) (hn : NoParity s) (hready : PkgReady s) (hb : breakAfterBranch s = true) :
    Exchanges (setFlag (wordEnded s) .breakpoint) (endWord s next) s.cpu.eea next := by
  rw [endWord_break next hb]
  exact exchangeJump_exchanges (s := setFlag (wordEnded s) .breakpoint) s.cpu.eea next (by decide) hq hn hready

end Exit

/-! ### Parity errors -/

/-- SLIP as it stands after a cause `f` has been raised late in `s`: where the flag was clear there is a slip, and within the
bound if no other was running (R417). -/
def SlipDrawn (s : State) (f : PsdFlag) (slip : Option Nat) : Prop :=
  flag s f = false → ∃ n, slip = some n ∧ ∀ b, s.cfg.errorExitSlip = some b → s.cpu.slip = none → n ≤ b

theorem raiseLate_cause (s : State) {f : PsdFlag} (hc : isCause s.cpu.psd f = true) :
    ∃ slip, raiseLate s f = flagged s [f] slip ∧ SlipDrawn s f slip := by
  obtain ⟨hframe, hslip⟩ := raiseWith_spec s f (drawSlip s f)
  refine ⟨_, hframe, fun hclear => ?_⟩
  rw [if_pos ⟨hclear, hc⟩] at hslip
  rw [hslip]
  cases s.cpu.slip with
  | none => exact ⟨_, rfl, fun b hb _ => drawSlip_bound s f b hb⟩
  | some m => exact ⟨_, rfl, nofun⟩

/-- The latch of SCM takes the error, or keeps an earlier one; nothing else changes. -/
theorem latchScm_spec (s : State) (a : ScmAddr) (sec : BitVec 5) : ∃ l, latchScm s (a, sec) = { s with scmLatch := l }
    ∧ (l = ⟨a, sec⟩ ∨ l = s.scmLatch ∧ s.scmLatch.sections ≠ 0) := by
  unfold latchScm
  split
  · rename_i h
    exact ⟨s.scmLatch, rfl, .inr ⟨rfl, bne_iff_ne.1 (Bool.and_eq_true_iff.1 h).1⟩⟩
  · exact ⟨_, rfl, .inl rfl⟩

/-- The latch of LCM. -/
theorem latchLcm_spec (s : State) (a : LcmAddr) (sec : BitVec 4) : ∃ l, latchLcm s (a, sec) = { s with lcmLatch := l }
    ∧ (l = ⟨a, sec⟩ ∨ l = s.lcmLatch ∧ s.lcmLatch.sections ≠ 0) := by
  unfold latchLcm
  split
  · rename_i h
    exact ⟨s.lcmLatch, rfl, .inr ⟨rfl, bne_iff_ne.1 (Bool.and_eq_true_iff.1 h).1⟩⟩
  · exact ⟨_, rfl, .inl rfl⟩

/-- Outside an exchange sequence the program that executes is charged with an SCM parity error. -/
theorem chargeScmParity_running {s : State} (h : ∀ x, s.cpu.phase ≠ .exchanging x) :
    chargeScmParity s = raiseLate s .scmParity := by
  unfold chargeScmParity
  split
  · rename_i x hx
    exact absurd hx (h x)
  · rfl

/-- A reference to a bad SCM word: the flag with a slip, the latch, the error gone from those that wait. -/
theorem scmDetect_bad {s : State} {a : ScmAddr} {sec : BitVec 5}
    (h : s.scmBad.find? (fun e => e.1 == a) = some (a, sec)) (hphase : ∀ x, s.cpu.phase ≠ .exchanging x) :
    ∃ l slip, scmDetect s a = { flagged s [.scmParity] slip with scmBad := s.scmBad.erase (a, sec), scmLatch := l }
      ∧ (l = ⟨a, sec⟩ ∨ l = s.scmLatch ∧ s.scmLatch.sections ≠ 0) ∧ SlipDrawn s .scmParity slip := by
  obtain ⟨slip, hraise, hslip⟩ := raiseLate_cause { s with scmBad := s.scmBad.erase (a, sec) } (f := .scmParity) rfl
  obtain ⟨l, hl, hlatch⟩ := latchScm_spec (flagged { s with scmBad := s.scmBad.erase (a, sec) } [.scmParity] slip) a sec
  refine ⟨l, slip, ?_, hlatch, hslip⟩
  simp only [scmDetect, h]
  rw [chargeScmParity_running, hraise, hl]
  · rfl
  · exact hphase

/-- A read of a bad LCM word. -/
theorem lcmDetect_bad {s : State} {a : LcmAddr} {sec : BitVec 4}
    (h : s.lcmBad.find? (fun e => e.1 == a) = some (a, sec)) :
    ∃ l slip, lcmDetect s a = { flagged s [.lcmParity] slip with lcmBad := s.lcmBad.erase (a, sec), lcmLatch := l }
      ∧ (l = ⟨a, sec⟩ ∨ l = s.lcmLatch ∧ s.lcmLatch.sections ≠ 0) ∧ SlipDrawn s .lcmParity slip := by
  obtain ⟨slip, hraise, hslip⟩ := raiseLate_cause { s with lcmBad := s.lcmBad.erase (a, sec) } (f := .lcmParity) rfl
  obtain ⟨l, hl, hlatch⟩ := latchLcm_spec (flagged { s with lcmBad := s.lcmBad.erase (a, sec) } [.lcmParity] slip) a sec
  refine ⟨l, slip, ?_, hlatch, hslip⟩
  simp only [lcmDetect, h]
  rw [hraise, hl]
  rfl

/-- 014 of a bad word completes all the same: the flag is set, and Xj alone of the registers gets a word. -/
theorem rx014_bad {s : State} {j k : Reg} {sec : BitVec 4} (hr : (getX s k).setWidth 19 < s.cpu.fll)
    (h : s.lcmBad.find? (fun e => e.1 == lcmAbs s ((getX s k).setWidth 19)) = some (lcmAbs s ((getX s k).setWidth 19), sec)) :
    ∃ t, exec (.rx014 j k) s = .next t ∧ t.cpu.psd = withFlags s [.lcmParity] ∧ t.lcm = s.lcm ∧ t.scm = s.scm
      ∧ ∀ q, q ≠ j → getX t q = getX s q := by
  obtain ⟨l, slip, hdetect, -⟩ := lcmDetect_bad (s := setX s j (lcmValue s (lcmAbs s ((getX s k).setWidth 19)))) h
  have hexec : exec (.rx014 j k) s = .next (readLcm s j ((getX s k).setWidth 19)) := rfl
  rw [hexec, readLcm, if_pos hr, hdetect]
  exact ⟨_, rfl, rfl, rfl, rfl, fun q hq => getX_setX_other s j q _ hq⟩

/-- Settles O44: the end of the word by what it finds, Step Mode at the issue, and a bad word by the reference to it. -/
theorem errorExitAtTheEndOfTheWord : Obligations.ErrorExitAtTheEndOfTheWord := by
  refine ⟨fun s next hq hn hready he hb hslip => endWord_exchanges next hq hn hready hb he hslip,
    fun s next n he hb hslip => ?_, fun s i => issue_step i,
    fun s next hq hn hready hstep hslip hb =>
      endWord_exchanges next hq hn hready (breakAfterBranch_false hb) (errorRequest_of_step hstep) (.inr hslip),
    fun s next hq hn hready hbranched hbpa =>
      endWord_break_exchanges next hq hn hready (breakAfterBranch_iff.2 ⟨hbranched, hbpa⟩),
    fun s a sec h hphase => ?_, fun s a sec h => ?_, fun s j k sec hr h => rx014_bad hr h⟩
  · have hcount := endWord_slip next hb he hslip
    refine ⟨hcount, fun hrtc hio => hcount.trans ?_⟩
    exact wordEndInterrupts_none (s := { s with cpu := { s.cpu with slip := some n, seqInc := seqAfterInc s } }) next hrtc hio
  · obtain ⟨l, slip, hdetect, hlatch, hslip⟩ := scmDetect_bad h hphase
    rw [hdetect]
    exact ⟨_, rfl, rfl, rfl, rfl, hlatch, hslip⟩
  · obtain ⟨l, slip, hdetect, hlatch, hslip⟩ := lcmDetect_bad h
    rw [hdetect]
    exact ⟨_, rfl, rfl, rfl, rfl, hlatch, hslip⟩

end Sys2Proof.Machine
end
